-- ==== Sys2Proof/Word.lean ====
section
/-! DEFINITION. The two bit-vector types of the block: the 32-bit word of its registers and ports, and the byte. -/

namespace Sys2Proof

/-- A 32-bit word: a register of the block (00_scope R8, R10) or one word of a command port (30_encoding R70). -/
abbrev Word := BitVec 32

/-- Eight bits: a bit-source byte (20_memory R53), a table entry or a sample component, read as two's complement (R56, R57). -/
abbrev Byte := BitVec 8

end Sys2Proof
end

