-- ==== Sys2Proof/Config.lean ====
section
/-! DEFINITION. The parameters of the model (00_scope R6) and its free values: constants with no body, of which no proof
can learn anything. -/

namespace Sys2Proof

/-- The four parameters of 00_scope R6, which no step changes. -/
structure Params where
  /-- `F_S`, samples per second; at least 1 -/
  sampleRate : Nat
  /-- `PHASE_SCALE`, the factor K of `increment = shift * K` -/
  phaseScale : Nat
  /-- `TABLE`, 256 signed bytes by 8-bit index -/
  table : BitVec 8 → Byte
  /-- `PHASE_RESET_ON_CONFIGURE` -/
  phaseReset : Bool

/-- The parameters with the defaults of 00_scope R6: `PHASE_SCALE = floor(2^32 / F_S)` and no phase reset. -/
def Params.ofRate (sampleRate : Nat) (table : BitVec 8 → Byte) : Params :=
  { sampleRate := sampleRate, phaseScale := 2 ^ 32 / sampleRate, table := table, phaseReset := false }

/-- `F_S - 1`, open (92_eei D1); written so that `F_S` is at least 1 (00_scope R6). DESIGN CHOICE (log 1). -/
opaque Config.sampleRateLessOne : Nat

/-- `F_S` (00_scope R6): any natural number from 1 up. -/
def Config.sampleRate : Nat := Config.sampleRateLessOne + 1

/-- `PHASE_SCALE` (00_scope R6, 92_eei D2): any natural number. DESIGN CHOICE (log 1). -/
opaque Config.phaseScale : Nat

/-- `TABLE` (00_scope R6, 92_eei D16): any 256 signed bytes. DESIGN CHOICE (log 1). -/
opaque Config.table : BitVec 8 → Byte

/-- `PHASE_RESET_ON_CONFIGURE` (00_scope R6, 92_eei D7): either value. DESIGN CHOICE (log 1). -/
opaque Config.phaseReset : Bool

/-- The parameters of this hardware, all free. -/
def Config.params : Params :=
  { sampleRate := Config.sampleRate, phaseScale := Config.phaseScale, table := Config.table, phaseReset := Config.phaseReset }

/-- The draw of a bit-source read at or above L, or of a byte the host wrote during the run (20_memory R53), the n-th draw of the
run. FREE VALUE (log 4). -/
opaque Config.freeByte : Nat → Byte

/-- What the byte of BS at an index holds that no HOST step has ever written: one byte of the host's memory, the same at every
read (20_memory R52, R53). FREE VALUE (log 5). -/
opaque Config.hostByte : Nat → Byte

/-- The draw of PHASE at reset (70_reset R180), the n-th draw of the run. FREE VALUE (log 2). -/
opaque Config.freePhase : Nat → Word

end Sys2Proof
end

