-- ==== Sys2Proof/Syntax.lean ====
section
/-! DEFINITION. The commands of the block, one constructor per row of the opcode table (30_encoding R72, R85), and its two ports. -/

namespace Sys2Proof

/-- The two command ports (30_encoding R70). -/
inductive Port where
  /-- the configuration port, driven by agent CFG -/
  | configuration
  /-- the sample port, driven by agent SYN -/
  | sample
deriving DecidableEq, Repr

/-- The commands. Operands are the mathematical integers the rules compute with (00_scope R10, 41_configure R140);
`Instr.wf` gives their ranges. -/
inductive Instr where
  /-- `CONFIGURE spb, shift, len, notice` (41_configure R140) -/
  | configure (spb : Nat) (shift : Int) (len : Nat) (notice : Nat)
  /-- `SAMPLE` (40_synthesizer R100) -/
  | sample
deriving DecidableEq, Repr

end Sys2Proof
end

