-- ==== Sys2Proof/WellFormed.lean ====
section
/-! DEFINITION. Which command terms stand for a frame: the operand ranges of 30_encoding R73 and R82. -/

namespace Sys2Proof

/-- An unsigned operand fits its payload word: `0 .. 2^32-1` (30_encoding R82). -/
def fitsU32 (n : Nat) : Bool := decide (n < 2 ^ 32)

/-- A signed operand fits its payload word: `-2^31 .. 2^31-1` (30_encoding R82). -/
def fitsS32 (v : Int) : Bool := decide (-2 ^ 31 ≤ v) && decide (v ≤ 2 ^ 31 - 1)

/-- The command has a frame: every operand is in the range of its payload word. Whether the values are ACCEPTED is not
asked here but by the command's own validation (30_encoding R74). -/
def Instr.wf : Instr → Bool
  | .configure spb shift len notice => fitsU32 spb && fitsS32 shift && fitsU32 len && fitsU32 notice
  | .sample => true

end Sys2Proof
end

