-- ==== Sys2Proof/Decode.lean ====
section
/-! DEFINITION. The frames of the two command ports (30_encoding R70 to R79): decoder, encoder, byte order, and the
sign helpers of 00_scope R10. -/

namespace Sys2Proof

/-- `u32(v)`: the integer reduced modulo 2^32 (00_scope R10). -/
def u32 (v : Int) : Word := BitVec.ofInt 32 v

/-- `s32(w)`: the word read as two's complement (00_scope R10). -/
def s32 (w : Word) : Int := w.toInt

/-- `OPC`, header bits [7:0] (30_encoding R71). -/
def headerOpc (h : Word) : BitVec 8 := h.extractLsb' 0 8

/-- `RSV`, header bits [31:8], which must be 0 (30_encoding R71). -/
def headerRsv (h : Word) : BitVec 24 := h.extractLsb' 8 24

/-- The header word of CONFIGURE (30_encoding R72). -/
def configureHeader : Word := 0x00000001#32

/-- The header word of SAMPLE (30_encoding R72). -/
def sampleHeader : Word := 0x00000002#32

/-- Why a frame spells no command (30_encoding R77), with its header word. -/
inductive FrameError where
  /-- `RSV != 0` -/
  | reservedBits (header : Word)
  /-- `OPC` is 0x00 or in 0x03 .. 0xFF -/
  | reservedOpcode (header : Word)
  /-- the frame reached the port that does not take its command (R76) -/
  | wrongPort (header : Word)
  /-- the port ends before all payload words of a CONFIGURE arrive -/
  | truncated (header : Word)
  /-- the port holds no word at all -/
  | noHeader
deriving DecidableEq, Repr

/-- The payload of a CONFIGURE in the order of 30_encoding R73, and the words after it. -/
def decodePayload (h : Word) : List Word → Except FrameError (Instr × List Word)
  | w1 :: w2 :: w3 :: w4 :: rest => .ok (.configure w1.toNat (s32 w2) w3.toNat w4.toNat, rest)
  | _ => .error (.truncated h)

/-- One frame from the front of a port's words: the header, then the number of payload words its opcode fixes
(30_encoding R72). Answers the command and the words after the frame, or why it spells none (R77). The order in which
the reasons are tried is the model's (log 15). -/
def decode (p : Port) : List Word → Except FrameError (Instr × List Word)
  | [] => .error .noHeader
  | h :: rest =>
    if headerRsv h ≠ 0#24 then .error (.reservedBits h)
    else if headerOpc h = 0x01#8 then
      match p with
      | .configuration => decodePayload h rest
      | .sample => .error (.wrongPort h)
    else if headerOpc h = 0x02#8 then
      match p with
      | .configuration => .error (.wrongPort h)
      | .sample => .ok (.sample, rest)
    else .error (.reservedOpcode h)

/-- The port that takes a command (30_encoding R72). -/
def Instr.port : Instr → Port
  | .configure _ _ _ _ => .configuration
  | .sample => .sample

/-- The length of a command's frame in words, header included (30_encoding R72). -/
def Instr.frameLength : Instr → Nat
  | .configure _ _ _ _ => 5
  | .sample => 1

/-- The frame of a command (30_encoding R72, R73, R82). -/
def encode : Instr → List Word
  | .configure spb shift len notice => [configureHeader, u32 spb, u32 shift, u32 len, u32 notice]
  | .sample => [sampleHeader]

/-- A word carried as bytes, little-endian (20_memory R59, 30_encoding R70). -/
def bytesOfWord (w : Word) : List Byte :=
  [w.extractLsb' 0 8, w.extractLsb' 8 8, w.extractLsb' 16 8, w.extractLsb' 24 8]

/-- The words of a frame carried as bytes. -/
def bytesOfWords : List Word → List Byte
  | [] => []
  | w :: ws => bytesOfWord w ++ bytesOfWords ws

/-- The words that a byte stream carries; one to three bytes left over at the end make no word (log 8). -/
def wordsOfBytes : List Byte → List Word
  | b0 :: b1 :: b2 :: b3 :: rest => (b3 ++ b2 ++ b1 ++ b0) :: wordsOfBytes rest
  | _ => []

/-- The `n` lowest bytes of a number, lowest first. -/
def bytesOfNat : Nat → Nat → List Byte
  | 0, _ => []
  | n + 1, w => BitVec.ofNat 8 w :: bytesOfNat n (w / 256)

/-- The words of the frame whose bits are `w`, the first word lowest, as long as the longest frame (five words); bits
from `nbits` on are 0. -/
def tableWords (nbits w : Nat) : List Word := wordsOfBytes (bytesOfNat 20 (w % 2 ^ nbits))

/-- The frame of the bits `w` on the port that takes it: the sample port is tried first (log 15). -/
def decodeTable (nbits w : Nat) : Except FrameError (Instr × List Word) :=
  match decode .sample (tableWords nbits w) with
  | .ok r => .ok r
  | .error _ => decode .configuration (tableWords nbits w)

/-- The instruction the decoder reads from the bits `w` of an opcode-table row. -/
def decodeTableWord (nbits w : Nat) : Option Instr :=
  match decodeTable nbits w with
  | .ok (i, _) => some i
  | .error _ => none

end Sys2Proof
end

