-- ==== Sys2Proof/Machine/State.lean ====
section
/-! DEFINITION. The state: the twelve registers of the block, the host's storage and the ports it stands between, the
events it has emitted, and the outcomes a step can stop with. -/

namespace Sys2Proof.Machine

/-- The agents that take steps (00_scope R5). -/
inductive Agent where
  | syn
  | cfg
  | host
  | rst
deriving DecidableEq, Repr

/-- The reasons of `InvalidConfig` (60_exceptions R161). -/
inductive Reason where
  /-- reason 1: `samples_per_bit = 0` (41_configure R141) -/
  | samplesPerBitZero
  /-- reason 2: `stream_length > 2^32 - 6` (41_configure R143) -/
  | streamTooLong
  /-- reason 3: `shift * PHASE_SCALE` outside `-2^31 .. 2^31 - 1` (41_configure R144) -/
  | incrementOutOfRange
deriving DecidableEq, Repr

/-- The reply of a CONFIGURE (60_exceptions R160). -/
inductive Status where
  | ok
  | invalidConfig (r : Reason)
deriving DecidableEq, Repr

/-- What the block emits (00_scope R13). -/
inductive Event where
  /-- `Sample(I, Q)`, two signed bytes (20_memory R57) -/
  | sample (i q : Byte)
  /-- `Report(progress, done)` (60_exceptions R166) -/
  | report (progress : Word) (done : Bool)
  /-- the reply of a CONFIGURE -/
  | status (st : Status)
deriving DecidableEq, Repr

/-- The steps of the HOST agent (20_memory R68; log 13). -/
inductive HostAct where
  /-- write the byte `b` of the bit source at index `a` (R52, R66) -/
  | writeByte (a : Nat) (b : Byte)
  /-- declare the length L of the bit source for the next run (R52; log 6) -/
  | declareLength (n : Nat)
  /-- send a `ConfigureFSK` message through CFG: the four payload words -/
  | message (spb shift len notice : Word)
  /-- hand SYN a buffer of `n` slots: `EXECUTE n` (30_encoding R84) -/
  | execute (n : Nat)
deriving DecidableEq, Repr

/-- The twelve registers (10_state R20). -/
structure Regs where
  /-- SPB, `samples_per_bit` (R24); a symbol lasts SPB + 1 samples (40_synthesizer R120) -/
  spb : Word
  /-- TOTAL, stream length plus trailer (R25) -/
  total : Word
  /-- INC0, increment of a 0 symbol (R26) -/
  inc0 : Word
  /-- INC1, increment of a 1 symbol (R27) -/
  inc1 : Word
  /-- NOTICE, progress interval (R28) -/
  notice : Word
  /-- PHASE, the accumulator (R29) -/
  phase : Word
  /-- BP, index of the next stream bit (R30) -/
  bp : Word
  /-- SC, samples within the symbol (R31) -/
  sc : Word
  /-- CS, the symbol being sent (R32) -/
  cs : Bool
  /-- CFG, Active (R33) -/
  cfg : Bool
  /-- PCNT, fetches since the last report (R34) -/
  pcnt : Word
  /-- PACC, reports of this run (R35) -/
  pacc : Word
deriving DecidableEq, Repr

/-- Bytes by address, addresses strictly rising, no address twice; what an
unlisted address of the bit source reads as is `State.sourceByte` (log 5). -/
abbrev Memory := List Host.Cell

/-- The canonical form of a memory. -/
abbrev Memory.wf (m : Memory) : Prop := m.Pairwise (fun x y => x.1 < y.1)

/-- The whole machine. -/
structure State where
  /-- the block's registers (10_state R20) -/
  regs : Regs
  /-- the bytes of BS the host has written (20_memory R52) -/
  bitSource : Memory
  /-- L of the current run (R52, R53) -/
  runLen : Nat
  /-- the length declared for the next run (R52; log 6) -/
  declaredLen : Nat
  /-- addresses a HOST step wrote since the CONFIGURE that started the run, strictly rising (R53, R66) -/
  hostWritten : List Nat
  /-- words waiting on the configuration port, oldest first (30_encoding R70) -/
  configurationPort : List Word
  /-- words waiting on the sample port, oldest first (30_encoding R70) -/
  samplePort : List Word
  /-- HOST steps not yet taken, oldest first (20_memory R63) -/
  hostActs : List HostAct
  /-- the interleaving: the agents of the coming steps, next first (20_memory R62; log 7) -/
  turns : List Agent
  /-- for each word waiting on the sample port, oldest first, the slot its SAMPLE fills: `some k` for the `k`-th frame of
  its EXECUTE, `none` (or no entry) for a frame of no EXECUTE (30_encoding R84; log 11) -/
  slots : List (Option Nat)
  /-- the buffer of the EXECUTE whose frames run or ran last (20_memory R58; log 11) -/
  out : Memory
  /-- the one slot the last SAMPLE of no EXECUTE filled (20_memory R58, R61; log 11) -/
  lone : Memory
  /-- everything emitted so far, oldest first (00_scope R13; log 10) -/
  events : List Event
  /-- how many draws have been taken (log 2, log 4) -/
  draws : Nat
deriving DecidableEq, Repr

/-- The block has no fault outcome (00_scope R12, 60_exceptions R163), so there is no fault to name. -/
inductive Fault where
deriving DecidableEq, Repr

/-- Why a step has no meaning. -/
inductive Refusal where
  /-- raised by an arm of exec for a command without a meaning (none is left); safe, the machine stops -/
  | notModelled (mnemonic : String)
  /-- raised by the step of SYN or CFG for a frame that spells no command (30_encoding R78); safe, no claim about the run
  holds through it -/
  | illegalFrame (why : FrameError)
deriving DecidableEq, Repr

/-- The registers after reset (70_reset R180), PHASE being the draw `phase`. -/
def Regs.initial (phase : Word) : Regs :=
  { spb := 0, total := 0, inc0 := 0, inc1 := 0, notice := 0, phase := phase, bp := 0, sc := 0, cs := false, cfg := false,
    pcnt := 0, pacc := 0 }

/-- The machine right after reset (70_reset R180): PHASE is draw number 0 (log 2); nothing is written, waiting or
emitted (log 19). -/
def State.reset : State :=
  { regs := Regs.initial (Config.freePhase 0), bitSource := [], runLen := 0, declaredLen := 0, hostWritten := [],
    configurationPort := [], samplePort := [], hostActs := [], turns := [], slots := [], out := [], lone := [],
    events := [], draws := 1 }

end Sys2Proof.Machine
end

