-- ==== Sys2Proof/Machine/Operands.lean ====
section
/-! DEFINITION. Operand forms: stream position to byte and bit (40_synthesizer R107, R108), phase to table index (R117,
R118), message field to increment (41_configure R145), and the words that carry replies and reports (30_encoding R80, R81). -/

namespace Sys2Proof.Machine

/-- The byte index of stream bit `bp`: `bp[31:3]` (40_synthesizer R107). -/
def fetchAddr (bp : Word) : Nat := (bp.extractLsb' 3 29).toNat

/-- The bit number of stream bit `bp` inside its byte: `bp[2:0]` (40_synthesizer R108). -/
def fetchBit (bp : Word) : Nat := (bp.extractLsb' 0 3).toNat

/-- `BIT8(b, k)`: `(b << k) & 0x80 != 0`, the shift not truncated to 8 bits (40_synthesizer R108). -/
def bit8 (b : Byte) (k : Nat) : Bool := decide ((b.toNat <<< k) &&& 0x80 ≠ 0)

/-- The table index of a phase: its top 8 bits (40_synthesizer R117). -/
def tableIndex (phase : Word) : BitVec 8 := phase.extractLsb' 24 8

/-- A quarter of a turn, 2^30 (00_scope R7, 40_synthesizer R118). -/
def quarterTurn : Word := 0x40000000#32

/-- `MemRead_TABLE(i, 1)` (20_memory R56). -/
def readTable (p : Params) (i : BitVec 8) : Byte := p.table i

/-- `LUT(phase)` (40_synthesizer R117). -/
def lut (p : Params) (phase : Word) : Byte := readTable p (tableIndex phase)

/-- The in-phase component of a phase (40_synthesizer R117). -/
def inPhase (p : Params) (phase : Word) : Byte := lut p phase

/-- The quadrature component of a phase, a quarter turn on (40_synthesizer R118). -/
def quadrature (p : Params) (phase : Word) : Byte := lut p (phase + quarterTurn)

/-- `TRAILER_BITS` (00_scope R7, 41_configure R147). -/
def trailerBits : Nat := 4

/-- `v = shift * PHASE_SCALE`, the exact product (41_configure R145). -/
def increment (p : Params) (shift : Int) : Int := shift * (p.phaseScale : Int)

/-- The reason code (60_exceptions R161). -/
def Reason.code : Reason → BitVec 8
  | .samplesPerBitZero => 1
  | .streamTooLong => 2
  | .incrementOutOfRange => 3

/-- The status word of a reply: `0x0000`, reason, status (30_encoding R80). -/
def Status.word : Status → Word
  | .ok => 0#16 ++ 0#8 ++ 0x00#8
  | .invalidConfig r => 0#16 ++ r.code ++ 0x01#8

/-- The two words of a report (30_encoding R81). -/
def reportWords (progress : Word) (done : Bool) : List Word := [progress, if done then 1 else 0]

end Sys2Proof.Machine
end

