-- ==== Sys2Proof/Machine/Flags.lean ====
section
/-! DEFINITION. The tests the block makes on its counters, and the tone it selects by the flag CS. The block has no
condition codes; its flags are CFG and CS (10_state R38). -/

namespace Sys2Proof.Machine

/-- Symbol boundary detector: `SC = SPB` (40_synthesizer R103). -/
def Regs.atBoundary (r : Regs) : Bool := decide (r.sc = r.spb)

/-- Completion test: `BP > TOTAL`, strict, unsigned (40_synthesizer R105). -/
def Regs.runComplete (r : Regs) : Bool := decide (r.total < r.bp)

/-- Progress test: `PCNT >= NOTICE`, unsigned (40_synthesizer R110). -/
def Regs.reportDue (r : Regs) : Bool := decide (r.notice ≤ r.pcnt)

/-- FSK tone selector: INC1 for a 1 symbol, INC0 for a 0 symbol (40_synthesizer R115). -/
def Regs.tone (r : Regs) : Word := if r.cs then r.inc1 else r.inc0

end Sys2Proof.Machine
end

