-- ==== Sys2Proof/Machine/Ops.lean ====
section
/-! DEFINITION. The named operations on registers, host memory, sample buffer, event stream and ports that the meanings
and the step are built from. -/

namespace Sys2Proof.Machine

/-! ### Memory -/

/-- The byte at an address, if one is listed. -/
def Memory.read : Memory → Nat → Option Byte
  | [], _ => none
  | (a, b) :: m, x => if a = x then some b else Memory.read m x

/-- Write one byte, keeping the addresses strictly rising. -/
def Memory.write : Memory → Nat → Byte → Memory
  | [], x, v => [(x, v)]
  | (a, b) :: m, x, v =>
    if x < a then (x, v) :: (a, b) :: m
    else if x = a then (a, v) :: m
    else (a, b) :: Memory.write m x v

/-- Add an address to a strictly rising list of addresses. -/
def insertAddr : List Nat → Nat → List Nat
  | [], x => [x]
  | a :: l, x => if x < a then x :: a :: l else if x = a then a :: l else a :: insertAddr l x

/-! ### Registers, stage by stage -/

/-- What a fetch writes: the symbol (40_synthesizer R108) and the advanced stream pointer (R109). -/
def Regs.fetched (r : Regs) (bit : Bool) : Regs := { r with cs := bit, bp := r.bp + 1 }

/-- What a due progress report writes (40_synthesizer R110). -/
def Regs.reported (r : Regs) : Regs := { r with pcnt := 0, pacc := r.pacc + 1 }

/-- What a fetch without a report writes (40_synthesizer R110). -/
def Regs.countedFetch (r : Regs) : Regs := { r with pcnt := r.pcnt + 1 }

/-- What completion writes: CS and CFG cleared (40_synthesizer R112). -/
def Regs.completed (r : Regs) : Regs := { r with cs := false, cfg := false }

/-- The counter at a boundary (40_synthesizer R104). -/
def Regs.restartedSymbol (r : Regs) : Regs := { r with sc := 0 }

/-- The counter elsewhere (40_synthesizer R104). -/
def Regs.countedSample (r : Regs) : Regs := { r with sc := r.sc + 1 }

/-- The NCO accumulator: one increment of the selected tone, modulo 2^32 (40_synthesizer R116). -/
def Regs.advanced (r : Regs) : Regs := { r with phase := r.phase + r.tone }

/-- What an accepted CONFIGURE loads (41_configure R140, R145 to R150): every register but PHASE, and PHASE only when
`PHASE_RESET_ON_CONFIGURE` is true. -/
def Regs.loaded (p : Params) (spb : Nat) (shift : Int) (len notice : Nat) (r : Regs) : Regs :=
  { spb := u32 spb
    total := u32 ((len : Int) + (trailerBits : Int))
    inc0 := u32 (increment p shift)
    inc1 := u32 (-increment p shift)
    notice := u32 notice
    phase := if p.phaseReset then 0 else r.phase
    bp := 0
    sc := u32 spb
    cs := false
    cfg := true
    pcnt := 0
    pacc := 0 }

/-! ### State -/

/-- Replace the registers. -/
def State.withRegs (s : State) (r : Regs) : State := { s with regs := r }

/-- Append one event to the observation (00_scope R13). -/
def State.emit (s : State) (e : Event) : State := { s with events := s.events ++ [e] }

/-- `BS[a]`: the byte a HOST step wrote there last, or what the host's memory held before (20_memory R52; log 5). -/
def State.sourceByte (s : State) (a : Nat) : Byte := (s.bitSource.read a).getD (Config.hostByte a)

/-- The byte a read at index `a` returns without a draw: below L and not written by the host during the run (20_memory
R53). -/
def State.definedByte (s : State) (a : Nat) : Option Byte :=
  if a < s.runLen ∧ a ∉ s.hostWritten then some (s.sourceByte a) else none

/-- `MemRead_BITSRC(a, 1)` (20_memory R53): the defined byte, or a draw. -/
def State.readBitSource (s : State) (a : Nat) : Byte × State :=
  match s.definedByte a with
  | some b => (b, s)
  | none => (Config.freeByte s.draws, { s with draws := s.draws + 1 })

/-- Write a pair into slot `k` of a buffer: `I` at byte `2k`, `Q` at byte `2k+1` (20_memory R58). -/
def Memory.writePair (m : Memory) (k : Nat) (i q : Byte) : Memory := (m.write (2 * k) i).write (2 * k + 1) q

/-- A SAMPLE writes its pair into its slot (20_memory R57, R61): the `k`-th of its EXECUTE into slot `k` of that EXECUTE's
buffer, which slot 0 begins anew; a SAMPLE of no EXECUTE into a buffer of one slot (log 11). -/
def State.writeSlot (s : State) (i q : Byte) : State :=
  match s.slots.headD none with
  | some k => { s with out := Memory.writePair (if k = 0 then [] else s.out) k i q, slots := s.slots.tail }
  | none => { s with lone := Memory.writePair [] 0 i q, slots := s.slots.tail }

/-- Step 4 of a SAMPLE: the pair goes to the slot and is emitted (40_synthesizer R119). -/
def State.output (s : State) (i q : Byte) : State := (s.writeSlot i q).emit (.sample i q)

/-- `raise InvalidConfig(r)`: the block's one error is a reply and nothing else; there is no trap entry, no saved state
and no return (60_exceptions R160, R164). -/
def State.raise (s : State) (r : Reason) : State := s.emit (.status (.invalidConfig r))

/-- `status OK` (41_configure R150). -/
def State.replyOk (s : State) : State := s.emit (.status .ok)

/-- A run starts: L is the length declared for it and no byte has been written in it (20_memory R52, R53; log 6). -/
def State.startRun (s : State) : State := { s with runLen := s.declaredLen, hostWritten := [] }

/-- A reset step (70_reset R180): every register its reset value, PHASE a fresh draw, no event. The host's memory, the
ports and the buffers are not the block's and stay (log 18). -/
def State.resetStep (s : State) : State :=
  { s with regs := Regs.initial (Config.freePhase s.draws), draws := s.draws + 1 }

/-- One slot entry for every word waiting on the sample port; the missing ones are of no EXECUTE. -/
def State.portSlots (s : State) : List (Option Nat) :=
  (s.slots ++ List.replicate s.samplePort.length none).take s.samplePort.length

/-- `EXECUTE n` (30_encoding R84): `n` SAMPLE frames on the sample port, the `k`-th of them for slot `k`; nothing for
`n = 0`. -/
def State.execute (s : State) (n : Nat) : State :=
  if n = 0 then s
  else
    { s with
      samplePort := s.samplePort ++ List.replicate n sampleHeader
      slots := s.portSlots ++ (List.range n).map some }

/-- One HOST step (20_memory R68). -/
def State.hostAct (s : State) : HostAct → State
  | .writeByte a b => { s with bitSource := s.bitSource.write a b, hostWritten := insertAddr s.hostWritten a }
  | .declareLength n => { s with declaredLen := n }
  | .message spb shift len notice =>
    { s with configurationPort := s.configurationPort ++ [configureHeader, spb, shift, len, notice] }
  | .execute n => s.execute n

/-- The HOST agent takes its next step, if it has one (20_memory R63). -/
def State.hostStep (s : State) : State :=
  match s.hostActs with
  | [] => s
  | act :: acts => { s with hostActs := acts }.hostAct act

/-- The words waiting on a port. -/
def State.port (s : State) : Port → List Word
  | .configuration => s.configurationPort
  | .sample => s.samplePort

/-- Replace the words waiting on a port. -/
def State.withPort (s : State) (p : Port) (ws : List Word) : State :=
  match p with
  | .configuration => { s with configurationPort := ws }
  | .sample => { s with samplePort := ws }

/-- The agent that drives a port (30_encoding R70). -/
def portAgent : Port → Agent
  | .configuration => .cfg
  | .sample => .syn

/-! ### The next step -/

/-- What the next step is. -/
inductive Action where
  /-- a step that runs no command: the state after it -/
  | quiet (s : State)
  /-- a command, and the state with its frame taken off the port -/
  | run (i : Instr) (s : State)
  /-- a frame that spells no command -/
  | refuse (why : FrameError)
deriving DecidableEq, Repr

/-- The next frame of a port, if any word waits there (30_encoding R72). -/
def State.fetch (s : State) (p : Port) : Action :=
  match s.port p with
  | [] => .quiet s
  | h :: ws =>
    match decode p (h :: ws) with
    | .ok (i, rest) => .run i (s.withPort p rest)
    | .error e => .refuse e

/-- The next step: the first agent of `turns` takes it (20_memory R62). With no turn left, and in the turn of an agent
with nothing to do, nothing happens (log 7). -/
def State.nextAction (s : State) : Action :=
  match s.turns with
  | [] => .quiet s
  | .rst :: ts => .quiet { s with turns := ts }.resetStep
  | .host :: ts => .quiet { s with turns := ts }.hostStep
  | .cfg :: ts => { s with turns := ts }.fetch .configuration
  | .syn :: ts => { s with turns := ts }.fetch .sample

/-- The slot entries after `n` words of no EXECUTE are put before the words of the sample port. -/
def State.slotsAfter (s : State) (n : Nat) : List (Option Nat) :=
  if s.slots = [] then [] else List.replicate n none ++ s.slots

/-- Put a frame at the front of a port and give its agent the next turn (log 14). A frame put on the sample port is of no
EXECUTE. -/
def State.placeFrame (s : State) (p : Port) (ws : List Word) : State :=
  { s.withPort p (ws ++ s.port p) with
    turns := portAgent p :: s.turns
    slots := match p with
      | .configuration => s.slots
      | .sample => s.slotsAfter ws.length }

/-- The frame of the bits `w` on the port that takes it; bits that spell no command go to the configuration port. -/
def State.placeTableWord (s : State) (nbits w : Nat) : State :=
  match decodeTable nbits w with
  | .ok (i, _) => s.placeFrame i.port ((tableWords nbits w).take i.frameLength)
  | .error _ => s.placeFrame .configuration (tableWords nbits w)

end Sys2Proof.Machine
end

