-- ==== Sys2Proof/Machine/Configuration.lean ====
section
/-! DEFINITION. The configuration family: CONFIGURE (41_configure R140). -/

namespace Sys2Proof.Machine

/-- The three checks in their order; the first that fails gives the reason (41_configure R141, R143, R144; 60_exceptions
R162). -/
def configureError (p : Params) (spb : Nat) (shift : Int) (len : Nat) : Option Reason :=
  if spb = 0 then some .samplesPerBitZero
  else if len > 2 ^ 32 - 6 then some .streamTooLong
  else if increment p shift < -2 ^ 31 ∨ increment p shift > 2 ^ 31 - 1 then some .incrementOutOfRange
  else none

/-- The whole of CONFIGURE for given parameters (41_configure R140): reject and change no register (R142), or load, start
the run and reply OK (R148, R150). -/
def State.configure (p : Params) (spb : Nat) (shift : Int) (len notice : Nat) (s : State) : State :=
  match configureError p spb shift len with
  | some r => s.raise r
  | none => (s.startRun.withRegs (s.regs.loaded p spb shift len notice)).replyOk

/-- CONFIGURE (41_configure R140): always a next state, the error being a reply (60_exceptions R160). -/
def execConfigure (spb : Nat) (shift : Int) (len notice : Nat) (s : State) : Host.Outcome State Fault Refusal :=
  .next (s.configure Config.params spb shift len notice)

end Sys2Proof.Machine
end

