-- ==== Sys2Proof/Machine/Synthesizer.lean ====
section
/-! DEFINITION. The synthesis family: SAMPLE (40_synthesizer R100). -/

namespace Sys2Proof.Machine

/-- Progress logic, once per fetch (40_synthesizer R110). -/
def State.progress (s : State) : State :=
  if s.regs.reportDue then (s.withRegs s.regs.reported).emit (.report s.regs.reported.pacc false)
  else s.withRegs s.regs.countedFetch

/-- Fetch branch: the byte at BP, its bit into CS, BP on, then the progress logic (40_synthesizer R106 to R111). -/
def State.fetchSymbol (s : State) : State :=
  match s.readBitSource (fetchAddr s.regs.bp) with
  | (b, s1) => (s1.withRegs (s1.regs.fetched (bit8 b (fetchBit s1.regs.bp)))).progress

/-- Completion branch (40_synthesizer R112). -/
def State.completeRun (s : State) : State := (s.withRegs s.regs.completed).emit (.report s.regs.pacc true)

/-- What happens at a symbol boundary before SC is cleared (40_synthesizer R105, R106). -/
def State.boundaryBranch (s : State) : State := if s.regs.runComplete then s.completeRun else s.fetchSymbol

/-- Step 2: the boundary stage of an active step (40_synthesizer R103, R104). -/
def State.boundaryStage (s : State) : State :=
  if s.regs.atBoundary then s.boundaryBranch.withRegs s.boundaryBranch.regs.restartedSymbol
  else s.withRegs s.regs.countedSample

/-- Steps 3 and 4 of a step still active: the phase advances, then is looked up and output (40_synthesizer R114 to R119). -/
def State.ncoStage (p : Params) (s : State) : State :=
  (s.withRegs s.regs.advanced).output (inPhase p s.regs.advanced.phase) (quadrature p s.regs.advanced.phase)

/-- Step 3 or, after completion, silence (40_synthesizer R113, R119). -/
def State.finishSample (p : Params) (s : State) : State := if s.regs.cfg then s.ncoStage p else s.output 0 0

/-- The whole of SAMPLE for given parameters (40_synthesizer R100 to R102). -/
def State.sample (p : Params) (s : State) : State := if s.regs.cfg then s.boundaryStage.finishSample p else s.output 0 0

/-- SAMPLE (40_synthesizer R100): always a next state (60_exceptions R163). -/
def execSample (s : State) : Host.Outcome State Fault Refusal := .next (s.sample Config.params)

end Sys2Proof.Machine
end

