-- ==== Sys2Proof/Machine/Dispatch.lean ====
section
/-! DEFINITION. One arm per command of the opcode table. -/

namespace Sys2Proof.Machine

def exec (i : Instr) (s : State) : Host.Outcome State Fault Refusal :=
  match i with
  | .configure spb shift len notice => Sys2Proof.Machine.execConfigure spb shift len notice s
  | .sample => Sys2Proof.Machine.execSample s

end Sys2Proof.Machine
end

