-- ==== Sys2Proof/Machine/Step.lean ====
section
/-! DEFINITION. One step of the machine: the next agent's step, whole (00_scope R12, 20_memory R62). -/

namespace Sys2Proof.Machine

/-- One step: a step without a command, a command, or the refusal of a frame that spells none (30_encoding R78). -/
def step (s : State) : Host.Outcome State Fault Refusal :=
  match s.nextAction with
  | .quiet s' => .next s'
  | .run i s' => exec i s'
  | .refuse e => .refused (.illegalFrame e)

/-- `s` with the frame whose bits are `w` at the front of the port that takes it, and that port's agent next to step
(log 14). -/
def State.withFetchWord (s : State) (nbits w : Nat) : State := s.placeTableWord nbits w

end Sys2Proof.Machine
end

