-- ==== Sys2Proof/Machine/Asm.lean ====
section
/-! DEFINITION. The textual command stream and the pseudo-commands (30_encoding R82 to R84): one line of text to one
command, and a line to the frames, buffers and turns it stands for. Details the spec leaves open are in log 17. -/

namespace Sys2Proof.Machine

/-- Why a line of text is no command (30_encoding R82); it then produces no frame. -/
inductive AsmError where
  /-- no command of the syntax table -/
  | badSyntax
  /-- a literal outside the range of its field -/
  | outOfRange
deriving DecidableEq, Repr

/-- One line of a command stream. -/
inductive Line where
  /-- `CONFIGURE spb, shift, len, notice` or `SAMPLE` -/
  | command (i : Instr)
  /-- `EXECUTE n` (R84) -/
  | execute (n : Nat)
  /-- `RESET` (R83) -/
  | reset
  /-- nothing but blanks and a comment -/
  | empty
deriving DecidableEq, Repr

/-- Space, tab or carriage return. -/
def isBlank (c : Char) : Bool := c = ' ' || c = '\t' || c = '\r'

/-- The text without blanks at its two ends. -/
def trimBlanks (cs : List Char) : List Char := ((cs.dropWhile isBlank).reverse.dropWhile isBlank).reverse

/-- Split at every occurrence of a separator; always at least one piece. -/
def splitAtChar (sep : Char) : List Char → List (List Char)
  | [] => [[]]
  | c :: cs =>
    if c = sep then [] :: splitAtChar sep cs
    else match splitAtChar sep cs with
      | [] => [[c]]
      | piece :: pieces => (c :: piece) :: pieces

/-- A hexadecimal digit. -/
def hexDigit (c : Char) : Option Nat :=
  if '0'.toNat ≤ c.toNat ∧ c.toNat ≤ '9'.toNat then some (c.toNat - '0'.toNat)
  else if 'A'.toNat ≤ c.toNat ∧ c.toNat ≤ 'F'.toNat then some (c.toNat - 'A'.toNat + 10)
  else if 'a'.toNat ≤ c.toNat ∧ c.toNat ≤ 'f'.toNat then some (c.toNat - 'a'.toNat + 10)
  else none

/-- The digits of a number in a base, with the value read so far. -/
def digitsValue (base : Nat) : Nat → List Char → Option Nat
  | acc, [] => some acc
  | acc, c :: cs =>
    match hexDigit c with
    | some d => if d < base then digitsValue base (acc * base + d) cs else none
    | none => none

/-- At least one digit of the base. -/
def parseDigits (base : Nat) : List Char → Option Nat
  | [] => none
  | c :: cs => digitsValue base 0 (c :: cs)

/-- An unsigned literal: decimal, or hexadecimal after `0x` (30_encoding R82). -/
def parseUnsigned : List Char → Option Nat
  | '0' :: 'x' :: cs => parseDigits 16 cs
  | cs => parseDigits 10 cs

/-- The literal of `shift`: as unsigned, or decimal after `-` (30_encoding R82). -/
def parseSigned : List Char → Option Int
  | '-' :: cs => (parseDigits 10 cs).map fun n => -(n : Int)
  | cs => (parseUnsigned cs).map fun n => (n : Int)

/-- A command whose operands are in range; otherwise an assembler error (30_encoding R82). -/
def checkRanges (i : Instr) : Except AsmError Line := if i.wf then .ok (.command i) else .error .outOfRange

/-- The four operands of CONFIGURE. -/
def parseConfigure : List (List Char) → Except AsmError Line
  | [a, b, c, d] =>
    match parseUnsigned a, parseSigned b, parseUnsigned c, parseUnsigned d with
    | some spb, some shift, some len, some notice => checkRanges (.configure spb shift len notice)
    | _, _, _, _ => .error .badSyntax
  | _ => .error .badSyntax

/-- The one operand of EXECUTE. -/
def parseExecute (operand : List Char) : Except AsmError Line :=
  match parseUnsigned operand with
  | some n => .ok (.execute n)
  | none => .error .badSyntax

/-- A mnemonic and the text after it (30_encoding R82 to R84). -/
def parseCommand (name operands : List Char) : Except AsmError Line :=
  if name = ['C', 'O', 'N', 'F', 'I', 'G', 'U', 'R', 'E'] then parseConfigure ((splitAtChar ',' operands).map trimBlanks)
  else if name = ['E', 'X', 'E', 'C', 'U', 'T', 'E'] then parseExecute operands
  else if operands ≠ [] then .error .badSyntax
  else if name = ['S', 'A', 'M', 'P', 'L', 'E'] then checkRanges .sample
  else if name = ['R', 'E', 'S', 'E', 'T'] then .ok .reset
  else .error .badSyntax

/-- One line: `;` to the end of the line is a comment (30_encoding R82). -/
def parseLine (cs : List Char) : Except AsmError Line :=
  let text := trimBlanks (cs.takeWhile (fun c => c ≠ ';'))
  if text = [] then .ok .empty
  else parseCommand (text.takeWhile (fun c => !isBlank c)) (trimBlanks (text.dropWhile (fun c => !isBlank c)))

/-- All lines of a text, or the first error: one line in error and no line of the text is taken, which is the model's choice, the
spec saying only that the line in error produces no frame (30_encoding R82). DESIGN CHOICE (log 20). -/
def parseLines : List (List Char) → Except AsmError (List Line)
  | [] => .ok []
  | l :: ls =>
    match parseLine l, parseLines ls with
    | .ok line, .ok lines => .ok (line :: lines)
    | .error e, _ => .error e
    | _, .error e => .error e

/-- A command stream, one command per line (30_encoding R82); what becomes of the other lines of one with an error is log 20. -/
def parseText (cs : List Char) : Except AsmError (List Line) := parseLines (splitAtChar '\n' cs)

/-- A line issued by its agent: its frames join the port, and its steps the interleaving, after all that already wait
(30_encoding R82 to R84). The frame of a line SAMPLE is of no EXECUTE (log 11). -/
def State.issue (s : State) : Line → State
  | .command (.configure spb shift len notice) =>
    { s with configurationPort := s.configurationPort ++ encode (.configure spb shift len notice), turns := s.turns ++ [.cfg] }
  | .command .sample => { s with samplePort := s.samplePort ++ encode .sample, turns := s.turns ++ [.syn] }
  | .execute n => { s.execute n with turns := s.turns ++ List.replicate n .syn }
  | .reset => { s with turns := s.turns ++ [.rst] }
  | .empty => s

/-- A command stream issued line by line. -/
def State.issueAll (s : State) : List Line → State
  | [] => s
  | l :: ls => (s.issue l).issueAll ls

end Sys2Proof.Machine
end

