-- ==== Sys2Proof/Safety.lean ====
section
/-! DEFINITION. What the claims say: the invariants of the block (10_state R36), the well-formedness of a state's data,
and runs of several commands. -/

namespace Sys2Proof.Machine

/-- The invariants of 10_state R36, items 1 to 5, on the registers. -/
structure Regs.Inv (r : Regs) : Prop where
  /-- item 1: `SC <= SPB` -/
  counter : r.sc ≤ r.spb
  /-- item 2, while Active: `SPB >= 1` -/
  symbolLength : r.cfg = true → 1 ≤ r.spb.toNat
  /-- item 2, while Active: `4 <= TOTAL` -/
  totalLow : r.cfg = true → 4 ≤ r.total.toNat
  /-- item 2, while Active: `TOTAL <= 2^32-2` -/
  totalHigh : r.cfg = true → r.total.toNat ≤ 2 ^ 32 - 2
  /-- item 2, while Active: `BP <= TOTAL + 1` -/
  position : r.cfg = true → r.bp.toNat ≤ r.total.toNat + 1
  /-- item 3: `PCNT <= NOTICE` -/
  progress : r.pcnt ≤ r.notice
  /-- item 4: `INC1 = u32(-s32(INC0))` -/
  increments : r.inc1 = u32 (-s32 r.inc0)
  /-- item 5: `PACC <= BP` -/
  reports : r.pacc ≤ r.bp

/-- The state's lists are in canonical form: the memories and the list of addresses written are strictly rising, and no slot
entry is without its word on the sample port. -/
def State.wf (s : State) : Prop :=
  Memory.wf s.bitSource ∧ Memory.wf s.out ∧ Memory.wf s.lone ∧ s.hostWritten.Pairwise (fun a b => a < b) ∧
    s.slots.length ≤ s.samplePort.length

/-- The command done `n` times in a row, with no other step between; stops at the first fault or refusal. -/
def execTimes (i : Instr) : Nat → State → Host.Outcome State Fault Refusal
  | 0, s => .next s
  | n + 1, s =>
    match exec i s with
    | .next s' => execTimes i n s'
    | .fault r => .fault r
    | .refused r => .refused r

/-- The operands of a CONFIGURE that pass the three checks (41_configure R141, R143, R144). -/
def AcceptedOperands (spb : Nat) (shift : Int) (len : Nat) : Prop :=
  spb ≠ 0 ∧ len ≤ 2 ^ 32 - 6 ∧ -2 ^ 31 ≤ shift * (Config.phaseScale : Int) ∧ shift * (Config.phaseScale : Int) ≤ 2 ^ 31 - 1

/-- The sum of the first `n` fetched symbols' increments, symbol `j` being `bit j` (40_synthesizer R123). -/
def toneSum (inc0 inc1 : Word) (bit : Nat → Bool) : Nat → Word
  | 0 => 0
  | n + 1 => toneSum inc0 inc1 bit n + (if bit n then inc1 else inc0)

/-- Stream bit `j` of the bit source, MSB first (20_memory R54). -/
def streamBit (s : State) (j : Nat) : Bool := (s.sourceByte (j / 8)).getLsbD (7 - j % 8)

/-- The table entries a step's `I` and `Q` are read from, for the phase it leaves (40_synthesizer R117, R118). -/
def sampleOfPhase (phase : Word) : Event :=
  .sample (Config.table (phase.extractLsb' 24 8)) (Config.table ((phase + 0x40000000#32).extractLsb' 24 8))

/-- The reports among the events (60_exceptions R166). -/
def reportsOf (es : List Event) : List (Word × Bool) :=
  es.filterMap fun e => match e with
    | .report progress done => some (progress, done)
    | .sample _ _ => none
    | .status _ => none

/-- The samples among the events (20_memory R57). -/
def samplesOf (es : List Event) : List (Byte × Byte) :=
  es.filterMap fun e => match e with
    | .sample i q => some (i, q)
    | .report _ _ => none
    | .status _ => none

end Sys2Proof.Machine
end

