-- ==== Sys2Proof/Certificates/Slice0/Obligations.lean ====
section
/-! DEFINITION. The statements about the model, for the provers. Rule numbers are those of spec/; a statement whose rule the
spec marks as its own decision or derivation says so and names it. -/

open Sys2Proof Sys2Proof.Machine

/-! ### Frames and decoding -/

/-- Decoding the frame of a command gives the command back, every operand at every value its payload word admits, and leaves
the words after it. 30_encoding R72, R73 (the spec's decision D11). -/
def Obligations.DecodeOfEncode : Prop :=
  ∀ (i : Instr) (rest : List Word), i.wf = true → decode i.port (encode i ++ rest) = .ok (i, rest)

/-- The only words that decode to a command are its frame, on its port, and what decodes is well formed. 30_encoding R72 to
R74, R76 (decisions D11, D12). -/
def Obligations.DecodeOnlyOwnFrame : Prop :=
  ∀ (p : Port) (ws rest : List Word) (i : Instr), decode p ws = .ok (i, rest) →
    i.wf = true ∧ p = i.port ∧ ws = encode i ++ rest

/-- A header word spells no command exactly when `RSV` is not 0, the opcode is reserved, the port is the wrong one, or the
port ends before the four payload words of a CONFIGURE. 30_encoding R77 (decision D12). -/
def Obligations.IllegalFrameExactly : Prop :=
  ∀ (p : Port) (h : Word) (ws : List Word),
    (∃ e, decode p (h :: ws) = .error e) ↔
      (h.extractLsb' 8 24 ≠ 0 ∨ (h.extractLsb' 0 8 ≠ 0x01#8 ∧ h.extractLsb' 0 8 ≠ 0x02#8) ∨
        (h.extractLsb' 0 8 = 0x01#8 ∧ p = .sample) ∨ (h.extractLsb' 0 8 = 0x02#8 ∧ p = .configuration) ∨
        (h.extractLsb' 0 8 = 0x01#8 ∧ ws.length < 4))

/-- Words written out from the spec's own examples (95_test_vectors V30-01 to V30-03, V30-10) decode to the commands they
stand for. 30_encoding R72, R73 (decision D11). -/
def Obligations.SpelledFramesDecode : Prop :=
  decode .configuration [0x00000001#32, 0x00000004#32, 0x000003E8#32, 0x00000008#32, 0x00000002#32]
      = .ok (.configure 4 1000 8 2, []) ∧
    decode .configuration [0x00000001#32, 0x00000001#32, 0xFFFFFFF8#32, 0x00000000#32, 0x00000003#32]
      = .ok (.configure 1 (-8) 0 3, []) ∧
    decode .sample [0x00000002#32] = .ok (.sample, []) ∧
    decode .configuration [0x00000001#32, 0x00000000#32, 0x00000001#32, 0x00000001#32, 0x00000001#32]
      = .ok (.configure 0 1 1 1, [])

/-- Words carried as bytes are little-endian: byte `k` of a word is its bits `[8k+7:8k]`, and the bytes carry the words
back. 20_memory R59, 30_encoding R70 (decision D14). -/
def Obligations.BytesCarryWords : Prop :=
  ∀ ws : List Word,
    wordsOfBytes (bytesOfWords ws) = ws ∧
      ∀ j < ws.length, ∀ k < 4,
        (bytesOfWords ws)[4 * j + k]? = some (((ws[j]?).getD 0 >>> (8 * k)).setWidth 8)

/-! ### Steps and agents -/

/-- When the words waiting on a port decode to a command and the port's agent takes the step, the step is exec of that
command, on the state with the turn and the frame taken off. 00_scope R12. -/
def Obligations.StepRunsDecodedFrame : Prop :=
  ∀ (s : State) (ts : List Agent) (p : Port) (i : Instr) (rest : List Word),
    s.turns = portAgent p :: ts → decode p (s.port p) = .ok (i, rest) →
      step s = exec i ({ s with turns := ts }.withPort p rest)

/-- A frame that spells no command is refused, by name. 30_encoding R78 (decision D12). -/
def Obligations.IllegalFrameRefused : Prop :=
  ∀ (s : State) (ts : List Agent) (p : Port) (e : FrameError),
    s.turns = portAgent p :: ts → s.port p ≠ [] → decode p (s.port p) = .error e →
      step s = .refused (.illegalFrame e)

/-- The refusal mark is kept for the rest of the run: once a frame that spells no command comes to its turn, after any number
of steps, the run is refused with the reason of that frame, however much longer it is run. 30_encoding R78 (decision D12); the
model's mark is the refused outcome (log 9). -/
def Obligations.RefusalMarkKept : Prop :=
  ∀ (s u : State) (ts : List Agent) (p : Port) (e : FrameError) (m n : Nat),
    Sys2Proof.core.run m s = .next u → u.turns = portAgent p :: ts → u.port p ≠ [] → decode p (u.port p) = .error e →
      Sys2Proof.core.run (m + (n + 1)) s = .refused (.illegalFrame e)

/-- A CONFIGURE and a SAMPLE both pending, and a reset with a command pending: both orders are admitted, each step whole.
20_memory R62, 60_exceptions R169 (decisions D10, D21). -/
def Obligations.BothOrdersAdmitted : Prop :=
  (∀ (s : State) (ts : List Agent) (i j : Instr) (iRest jRest : List Word),
    decode .configuration s.configurationPort = .ok (i, iRest) → decode .sample s.samplePort = .ok (j, jRest) →
      (∃ t u, exec i { s with turns := .syn :: ts, configurationPort := iRest } = .next t ∧
        exec j { t with turns := ts, samplePort := jRest } = .next u ∧
        Sys2Proof.core.run 2 { s with turns := .cfg :: .syn :: ts } = .next u) ∧
      (∃ t u, exec j { s with turns := .cfg :: ts, samplePort := jRest } = .next t ∧
        exec i { t with turns := ts, configurationPort := iRest } = .next u ∧
        Sys2Proof.core.run 2 { s with turns := .syn :: .cfg :: ts } = .next u)) ∧
  (∀ (s : State) (ts : List Agent) (p : Port) (i : Instr) (rest : List Word), decode p (s.port p) = .ok (i, rest) →
      (∃ u, exec i ({ s with turns := ts }.resetStep.withPort p rest) = .next u ∧
        Sys2Proof.core.run 2 { s with turns := .rst :: portAgent p :: ts } = .next u) ∧
      (∃ t, exec i ({ s with turns := .rst :: ts }.withPort p rest) = .next t ∧
        Sys2Proof.core.run 2 { s with turns := portAgent p :: .rst :: ts } = .next { t with turns := ts }.resetStep))

/-- With no agent to step, and in the turn of a port's agent with no word waiting, nothing changes but the turn. The model's
choice, log 7. -/
def Obligations.NoCommandNoChange : Prop :=
  (∀ s : State, s.turns = [] → step s = .next s) ∧
    (∀ (s : State) (ts : List Agent) (p : Port), s.turns = portAgent p :: ts → s.port p = [] →
      step s = .next { s with turns := ts })

/-- No step of the host reads or writes a block register or emits an event. 00_scope R5 and R13, 20_memory R68 (decisions
D10, D15, D17, D19). -/
def Obligations.HostStepsLeaveBlock : Prop :=
  ∀ (s : State) (ts : List Agent), s.turns = .host :: ts →
    ∃ t, step s = .next t ∧ t.regs = s.regs ∧ t.events = s.events ∧ t.turns = ts

/-- A reset step writes every register its reset value, PHASE a draw, emits no event, and leaves the host's memory and what
waits on the ports. 70_reset R180 (decisions D8, D9, D20); what it leaves is the model's reading, log 18. -/
def Obligations.ResetStepResults : Prop :=
  ∀ (s : State) (ts : List Agent), s.turns = .rst :: ts →
    ∃ t, step s = .next t ∧
      t.regs = { spb := 0, total := 0, inc0 := 0, inc1 := 0, notice := 0, phase := Config.freePhase s.draws, bp := 0, sc := 0,
                 cs := false, cfg := false, pcnt := 0, pacc := 0 } ∧
      t.events = s.events ∧ t.draws = s.draws + 1 ∧ t.turns = ts ∧ (∀ a, t.bitSource.read a = s.bitSource.read a) ∧
      (∀ p, t.port p = s.port p)

/-- After reset the block is Idle, every other register the spec gives a value holds it, and PHASE is a draw. 10_state R37,
70_reset R180, R181 (decisions D8, D9). -/
def Obligations.ResetStateRegisters : Prop :=
  State.reset.regs.cfg = false ∧ State.reset.regs.cs = false ∧ State.reset.regs.spb = 0 ∧ State.reset.regs.total = 0 ∧
    State.reset.regs.inc0 = 0 ∧ State.reset.regs.inc1 = 0 ∧ State.reset.regs.notice = 0 ∧ State.reset.regs.sc = 0 ∧
    State.reset.regs.bp = 0 ∧ State.reset.regs.pcnt = 0 ∧ State.reset.regs.pacc = 0 ∧
    State.reset.regs.phase = Config.freePhase 0 ∧ State.reset.events = []

/-! ### Invariants -/

/-- The invariants of 10_state R36 (derived by the spec), items 1 to 5, hold right after reset. -/
def Obligations.InvariantsAtReset : Prop := State.reset.regs.Inv

/-- Every step of every agent keeps the invariants of 10_state R36, items 1 to 5, from any state that has them. -/
def Obligations.InvariantsKeptByStep : Prop :=
  ∀ s t : State, s.regs.Inv → step s = .next t → t.regs.Inv

/-- In a state with the invariants no SAMPLE makes `BP`, `SC`, `PCNT` or `PACC` wrap: wherever the rules count one up, the
number is one more, and everywhere else it is kept or cleared as the rules say. 10_state R36 items 5 and 6 (derived by the
spec), 60_exceptions R172. -/
def Obligations.CountersNeverWrap : Prop :=
  ∀ s : State, s.regs.Inv → ∃ t, exec .sample s = .next t ∧
    (s.regs.cfg = false → t.regs = s.regs) ∧
    (s.regs.cfg = true → s.regs.sc ≠ s.regs.spb →
      t.regs.sc.toNat = s.regs.sc.toNat + 1 ∧ t.regs.bp = s.regs.bp ∧ t.regs.pcnt = s.regs.pcnt ∧ t.regs.pacc = s.regs.pacc) ∧
    (s.regs.cfg = true → s.regs.sc = s.regs.spb → s.regs.bp.toNat > s.regs.total.toNat →
      t.regs.sc = 0 ∧ t.regs.bp = s.regs.bp ∧ t.regs.pcnt = s.regs.pcnt ∧ t.regs.pacc = s.regs.pacc) ∧
    (s.regs.cfg = true → s.regs.sc = s.regs.spb → s.regs.bp.toNat ≤ s.regs.total.toNat →
      t.regs.sc = 0 ∧ t.regs.bp.toNat = s.regs.bp.toNat + 1 ∧
      (s.regs.pcnt.toNat < s.regs.notice.toNat →
        t.regs.pcnt.toNat = s.regs.pcnt.toNat + 1 ∧ t.regs.pacc = s.regs.pacc) ∧
      (s.regs.notice.toNat ≤ s.regs.pcnt.toNat → t.regs.pcnt = 0 ∧ t.regs.pacc.toNat = s.regs.pacc.toNat + 1))

/-- The canonical form of the state's data holds right after reset. The model's own form, log 5, log 6 and log 11. -/
def Obligations.CanonicalAtReset : Prop := State.reset.wf

/-- Every step keeps the canonical form of the bit source, the sample buffers and the list of written addresses, and no slot
entry without its word on the sample port. The model's own form, log 5, log 6 and log 11. -/
def Obligations.CanonicalKeptByStep : Prop := ∀ s t : State, s.wf → step s = .next t → t.wf

/-! ### CONFIGURE -/

/-- A CONFIGURE whose operands pass the three checks answers a next state: every register as 41_configure R140 loads it,
PHASE by the parameter, one event `OK`, and nothing else but the start of the run in the bit source. R145 to R150; the checks
R143, R144 and the parameter R149 are the spec's decisions D2, D4, D5, D7; when L is taken is the model's choice, log 6. -/
def Obligations.ConfigureAccepted : Prop :=
  ∀ (s : State) (spb : Nat) (shift : Int) (len notice : Nat), AcceptedOperands spb shift len →
    exec (.configure spb shift len notice) s = .next
      { s with
        regs :=
          { spb := BitVec.ofNat 32 spb
            total := BitVec.ofNat 32 (len + 4)
            inc0 := BitVec.ofInt 32 (shift * (Config.phaseScale : Int))
            inc1 := BitVec.ofInt 32 (-(shift * (Config.phaseScale : Int)))
            notice := BitVec.ofNat 32 notice
            phase := if Config.phaseReset then 0 else s.regs.phase
            bp := 0
            sc := BitVec.ofNat 32 spb
            cs := false
            cfg := true
            pcnt := 0
            pacc := 0 }
        runLen := s.declaredLen
        hostWritten := []
        events := s.events ++ [.status .ok] }

/-- What a CONFIGURE that replied `OK` leaves: `TOTAL` four more than the stream length, `INC1` the two's-complement
negation of `INC0`, the counters as the fields listed, Active, and a fetch in the very next SAMPLE. 41_configure R146, R147, R148, R150. -/
def Obligations.AcceptedRegisters : Prop :=
  ∀ (s t : State) (spb : Nat) (shift : Int) (len notice : Nat),
    (Instr.configure spb shift len notice).wf = true →
    exec (.configure spb shift len notice) s = .next t → t.events = s.events ++ [.status .ok] →
      t.regs.spb.toNat = spb ∧ t.regs.total.toNat = len + 4 ∧ t.regs.notice.toNat = notice ∧ t.regs.sc = t.regs.spb ∧
      t.regs.inc0.toInt = shift * (Config.phaseScale : Int) ∧ t.regs.inc1 = -t.regs.inc0 ∧
      (t.regs.inc0 = 0x80000000#32 → t.regs.inc1 = 0x80000000#32) ∧ (t.regs.inc0 = 0 → t.regs.inc1 = 0) ∧
      t.regs.bp = 0 ∧ t.regs.cs = false ∧ t.regs.pcnt = 0 ∧ t.regs.pacc = 0 ∧ t.regs.cfg = true ∧
      ∃ u, exec .sample t = .next u ∧ u.regs.bp = 1

/-- CONFIGURE runs for this hardware's parameters, and for every value of the parameters each check rejects with its reason,
the lowest that applies, the reply being the only effect. 41_configure R141, R143, R144, 60_exceptions R161, R162 (decisions
D4, D5, D13). -/
def Obligations.ConfigureRejections : Prop :=
  (∀ (s : State) (spb : Nat) (shift : Int) (len notice : Nat),
    exec (.configure spb shift len notice) s = .next (s.configure Config.params spb shift len notice)) ∧
  ∀ (p : Params) (s : State) (spb : Nat) (shift : Int) (len notice : Nat),
    (spb = 0 → s.configure p spb shift len notice =
      { s with events := s.events ++ [.status (.invalidConfig .samplesPerBitZero)] }) ∧
    (spb ≠ 0 → len > 2 ^ 32 - 6 → s.configure p spb shift len notice =
      { s with events := s.events ++ [.status (.invalidConfig .streamTooLong)] }) ∧
    (spb ≠ 0 → len ≤ 2 ^ 32 - 6 →
      (shift * (p.phaseScale : Int) < -2 ^ 31 ∨ shift * (p.phaseScale : Int) > 2 ^ 31 - 1) →
      s.configure p spb shift len notice =
        { s with events := s.events ++ [.status (.invalidConfig .incrementOutOfRange)] })

/-- A rejected CONFIGURE writes no register, and nothing else: only its reply is added. 41_configure R142. -/
def Obligations.RejectedWritesNothing : Prop :=
  ∀ (s t : State) (spb : Nat) (shift : Int) (len notice : Nat) (r : Reason),
    exec (.configure spb shift len notice) s = .next t → t.events = s.events ++ [.status (.invalidConfig r)] →
      t.regs = s.regs ∧ t = { s with events := t.events }

/-- The shifts the third check accepts, for a scale factor above 0: `-floor(2^31 / K) .. floor((2^31 - 1) / K)`.
41_configure R144 (decision D4). -/
def Obligations.AcceptedShiftRange : Prop :=
  ∀ (p : Params) (spb : Nat) (shift : Int) (len : Nat), 0 < p.phaseScale → spb ≠ 0 → len ≤ 2 ^ 32 - 6 →
    (configureError p spb shift len = none ↔
      -((2 ^ 31 / p.phaseScale : Nat) : Int) ≤ shift ∧ shift ≤ (((2 ^ 31 - 1) / p.phaseScale : Nat) : Int))

/-- The frame of CONFIGURE, accepted or rejected: it always answers a next state, adds exactly one status, and changes no
byte of host memory, no slot, no port and no draw. 20_memory R61 (derived by the spec), 41_configure R140. -/
def Obligations.ConfigureFrame : Prop :=
  ∀ (s : State) (spb : Nat) (shift : Int) (len notice : Nat),
    ∃ t st, exec (.configure spb shift len notice) s = .next t ∧ t.events = s.events ++ [.status st] ∧
      (∀ a, t.bitSource.read a = s.bitSource.read a) ∧ (∀ a, t.out.read a = s.out.read a) ∧
      (∀ a, t.lone.read a = s.lone.read a) ∧ t.slots = s.slots ∧ (∀ p, t.port p = s.port p) ∧ t.hostActs = s.hostActs ∧ t.turns = s.turns ∧
      t.declaredLen = s.declaredLen ∧ t.draws = s.draws

/-- An accepted CONFIGURE, Idle or Active, starts its run at once: no completion report, and the very next SAMPLE is a
boundary that fetches stream bit 0 with the new increments, on the phase the CONFIGURE left, and reports
only if `NOTICE = 0`. 41_configure R151, R153, 70_reset R190 (R153 and R190 derived by the spec; decision D7); which operands are
accepted and the increment are decisions D2, D4 and D5, the byte or draw is 20_memory R53 (decision D15), the report and its
value 40_synthesizer R110 (decision D6), the sample R116 to R119. -/
def Obligations.ConfigureTakesEffectAtOnce : Prop :=
  ∀ (s : State) (spb : Nat) (shift : Int) (len notice : Nat),
    (Instr.configure spb shift len notice).wf = true → AcceptedOperands spb shift len →
    ∃ t u b, exec (.configure spb shift len notice) s = .next t ∧ exec .sample t = .next u ∧
      t.events = s.events ++ [.status .ok] ∧
      b = (t.definedByte 0).getD (Config.freeByte t.draws) ∧
      u.regs.cs = b.getLsbD 7 ∧ u.regs.bp = 1 ∧ u.regs.sc = 0 ∧ u.regs.cfg = true ∧
      u.regs.phase = t.regs.phase +
        BitVec.ofInt 32 (if b.getLsbD 7 then -(shift * (Config.phaseScale : Int)) else shift * (Config.phaseScale : Int)) ∧
      u.regs.pacc = (if notice = 0 then 1 else 0) ∧
      u.events = t.events ++ (if notice = 0 then [.report 1 false] else []) ++ [sampleOfPhase u.regs.phase]

/-- No run can tell the Idle block's registers other than PHASE apart: from two states that differ only in them, every run
of the machine, of any length, has the same outcome and emits the same events. The two runs are compared under the same
draws (log 4). 70_reset R182 (derived by the spec). -/
def Obligations.IdleRegistersUnobservable : Prop :=
  ∀ (s : State) (r1 r2 : Regs) (n : Nat), r1.cfg = false → r2.cfg = false → r1.phase = r2.phase →
    match Sys2Proof.core.run n { s with regs := r1 }, Sys2Proof.core.run n { s with regs := r2 } with
    | .next t1, .next t2 => t1.events = t2.events ∧ t1.regs.cfg = t2.regs.cfg
    | .refused e1, .refused e2 => e1 = e2
    | _, _ => False

/-! ### SAMPLE -/

/-- Idle: a SAMPLE emits silence and changes nothing else: no register, no draw, no bit-source byte. 40_synthesizer R101. -/
def Obligations.SampleIdle : Prop :=
  ∀ s : State, s.regs.cfg = false →
    ∃ t, exec .sample s = .next t ∧ t.regs = s.regs ∧ t.events = s.events ++ [.sample 0 0] ∧ t.draws = s.draws ∧
      (∀ a, t.bitSource.read a = s.bitSource.read a) ∧ (∀ p, t.port p = s.port p)

/-- The counter and the boundary detector: at `SC = SPB` an active SAMPLE leaves `SC = 0`, fetching or completing; at any
other it leaves `SC` one more. 40_synthesizer R103, R104. -/
def Obligations.SampleCounter : Prop :=
  ∀ s : State, s.regs.cfg = true →
    ∃ t, exec .sample s = .next t ∧
      (s.regs.sc = s.regs.spb → t.regs.sc = 0 ∧ (t.regs.bp = s.regs.bp + 1 ∨ t.regs.cfg = false)) ∧
      (s.regs.sc ≠ s.regs.spb → t.regs.sc = s.regs.sc + 1 ∧ t.regs.bp = s.regs.bp ∧ t.regs.cfg = true ∧ t.regs.cs = s.regs.cs)

/-- At a boundary the run completes exactly when `BP > TOTAL`, strict and unsigned, and otherwise fetches. 40_synthesizer
R105. -/
def Obligations.CompletionTest : Prop :=
  ∀ s : State, s.regs.cfg = true → s.regs.sc = s.regs.spb →
    ∃ t, exec .sample s = .next t ∧ (t.regs.cfg = false ↔ s.regs.bp.toNat > s.regs.total.toNat) ∧
      (s.regs.bp.toNat ≤ s.regs.total.toNat → t.regs.bp = s.regs.bp + 1)

/-- The tone selector and the accumulator: PHASE is advanced exactly in the active SAMPLEs that leave the block Active, by
`INC1` if the symbol the step leaves is 1 and by `INC0` if it is 0, modulo 2^32, which is the same as adding the increment
read as two's complement; and the sample is looked up at the advanced phase. 40_synthesizer R114, R115, R116. -/
def Obligations.PhaseAdvance : Prop :=
  ∀ s : State, s.regs.cfg = true →
    ∃ t inc, exec .sample s = .next t ∧ inc = (if t.regs.cs then s.regs.inc1 else s.regs.inc0) ∧
      (t.regs.cfg = false → t.regs.phase = s.regs.phase) ∧
      (t.regs.cfg = true →
        t.regs.phase.toNat = (s.regs.phase.toNat + inc.toNat) % 2 ^ 32 ∧
        t.regs.phase = BitVec.ofInt 32 ((s.regs.phase.toNat : Int) + inc.toInt) ∧
        ∃ es, t.events = es ++ [sampleOfPhase t.regs.phase])

/-- In every active SAMPLE that does not complete, `I` is the table entry at the top 8 bits of the advanced phase and `Q` the
entry at the top 8 bits of that phase a quarter turn on, which is 64 entries further on modulo 256 with the low 24 bits of the
phase as they were. 40_synthesizer R117, R118. -/
def Obligations.QuadratureLookup : Prop :=
  ∀ s : State, s.regs.cfg = true → ¬(s.regs.sc = s.regs.spb ∧ s.regs.bp.toNat > s.regs.total.toNat) →
    ∃ t es, exec .sample s = .next t ∧
      t.events = es ++ [.sample (Config.table (t.regs.phase.extractLsb' 24 8))
        (Config.table ((t.regs.phase + 0x40000000#32).extractLsb' 24 8))] ∧
      t.regs.phase.extractLsb' 24 8 = BitVec.ofNat 8 (t.regs.phase.toNat / 2 ^ 24) ∧
      (t.regs.phase + 0x40000000#32).extractLsb' 24 8 = BitVec.ofNat 8 (t.regs.phase.toNat / 2 ^ 24 + 64) ∧
      (t.regs.phase + 0x40000000#32).toNat % 2 ^ 24 = t.regs.phase.toNat % 2 ^ 24

/-- The position in the stream: bit `i` is bit `7 - i mod 8` of byte `i / 8`, and equally the sign of that byte shifted left
by `i mod 8`. 20_memory R54, 40_synthesizer R108. -/
def Obligations.StreamBitOrder : Prop :=
  ∀ (i : Word) (b : Byte),
    fetchAddr i = i.toNat / 8 ∧ bit8 b (fetchBit i) = b.getLsbD (7 - i.toNat % 8) ∧
      (bit8 b (fetchBit i) = true ↔ b.toNat * 2 ^ (i.toNat % 8) &&& 0x80 ≠ 0)

/-- An active SAMPLE within a symbol: the counter and the phase move, one sample comes out, and no draw is taken.
40_synthesizer R104, R115 to R119. -/
def Obligations.SampleWithinSymbol : Prop :=
  ∀ s : State, s.regs.cfg = true → s.regs.sc ≠ s.regs.spb →
    ∃ t, exec .sample s = .next t ∧
      t.regs = { s.regs with
        sc := s.regs.sc + 1, phase := s.regs.phase + (if s.regs.cs then s.regs.inc1 else s.regs.inc0) } ∧
      t.events = s.events ++ [sampleOfPhase t.regs.phase] ∧ t.draws = s.draws

/-- A boundary with a fetch: the bit of the byte read, or of the draw, becomes CS; BP advances; the progress logic counts or
reports; SC restarts; the phase advances by the new symbol's tone. 40_synthesizer R104 to R110, R115 to R119; the value of
the report is the spec's decision D6. -/
def Obligations.SampleFetch : Prop :=
  ∀ s : State, s.regs.cfg = true → s.regs.sc = s.regs.spb → s.regs.bp.toNat ≤ s.regs.total.toNat →
    ∃ t bit, exec .sample s = .next t ∧
      bit = ((s.definedByte (s.regs.bp.toNat / 8)).getD (Config.freeByte s.draws)).getLsbD (7 - s.regs.bp.toNat % 8) ∧
      t.regs = { s.regs with
        cs := bit
        bp := s.regs.bp + 1
        sc := 0
        pcnt := if s.regs.notice ≤ s.regs.pcnt then 0 else s.regs.pcnt + 1
        pacc := if s.regs.notice ≤ s.regs.pcnt then s.regs.pacc + 1 else s.regs.pacc
        phase := s.regs.phase + (if bit then s.regs.inc1 else s.regs.inc0) } ∧
      t.events = s.events ++ (if s.regs.notice ≤ s.regs.pcnt then [.report (s.regs.pacc + 1) false] else []) ++
        [sampleOfPhase t.regs.phase] ∧
      t.draws = s.draws + (if (s.definedByte (s.regs.bp.toNat / 8)).isSome then 0 else 1)

/-- Completion: CS and CFG cleared, SC 0, nothing else written; the completion report, then silence; no bit-source read.
40_synthesizer R104, R112, R113; the value of the report is the spec's decision D6. -/
def Obligations.SampleCompletes : Prop :=
  ∀ s : State, s.regs.cfg = true → s.regs.sc = s.regs.spb → s.regs.bp.toNat > s.regs.total.toNat →
    ∃ t, exec .sample s = .next t ∧ t.regs = { s.regs with cs := false, cfg := false, sc := 0 } ∧
      t.events = s.events ++ [.report s.regs.pacc true, .sample 0 0] ∧ t.draws = s.draws

/-- SAMPLE raises nothing: from every state it answers a next state and replies no status; it emits at most one report and
then exactly one sample. 40_synthesizer R100, 60_exceptions R163. -/
def Obligations.SampleRaisesNothing : Prop :=
  ∀ s : State, ∃ t rs i q, exec .sample s = .next t ∧ t.events = s.events ++ rs ++ [.sample i q] ∧
    (rs = [] ∨ ∃ progress done, rs = [.report progress done])

/-- The frame of SAMPLE: the configuration registers, the bit source with its length and its marks, the ports and the host's
pending steps are unchanged. 10_state R37 and 20_memory R61 (derived by the spec). -/
def Obligations.SampleFrame : Prop :=
  ∀ s : State, ∃ t, exec .sample s = .next t ∧
    t.regs.spb = s.regs.spb ∧ t.regs.total = s.regs.total ∧ t.regs.inc0 = s.regs.inc0 ∧ t.regs.inc1 = s.regs.inc1 ∧
    t.regs.notice = s.regs.notice ∧ (∀ a, t.bitSource.read a = s.bitSource.read a) ∧ t.runLen = s.runLen ∧
    t.declaredLen = s.declaredLen ∧ t.hostWritten = s.hostWritten ∧ (∀ p, t.port p = s.port p) ∧
    t.hostActs = s.hostActs ∧ t.turns = s.turns

/-- A SAMPLE writes the pair it emits into its slot, `I` at byte `2k` and `Q` at byte `2k+1`: the `k`-th of an EXECUTE into
slot `k` of that EXECUTE's buffer, of which every other byte reads as before, or as nothing where slot 0 begins it; a SAMPLE of
no EXECUTE into a buffer of one slot, no other being touched. 20_memory R57, R58 (decision D14); the buffer's start and the
buffer of one slot are the model's, log 11. -/
def Obligations.SampleFillsItsSlot : Prop :=
  ∀ s : State, ∃ t i q es, exec .sample s = .next t ∧ t.events = es ++ [.sample i q] ∧ t.slots = s.slots.tail ∧
    (∀ k, s.slots.head? = some (some k) →
      t.out.read (2 * k) = some i ∧ t.out.read (2 * k + 1) = some q ∧
      (∀ a, a ≠ 2 * k → a ≠ 2 * k + 1 → t.out.read a = if k = 0 then none else s.out.read a) ∧
      (∀ a, t.lone.read a = s.lone.read a)) ∧
    (s.slots.head? = none ∨ s.slots.head? = some none →
      t.lone.read 0 = some i ∧ t.lone.read 1 = some q ∧ (∀ a, 2 ≤ a → t.lone.read a = none) ∧
      (∀ a, t.out.read a = s.out.read a))

/-! ### The bit source -/

/-- A byte below L, not written by the host during the run, reads as it stands in the host's memory and the read changes
nothing; any other reads as a draw. 20_memory R53 (decision D15); what a byte no step has written holds is a free value, log
5. -/
def Obligations.BitSourceRead : Prop :=
  ∀ (s : State) (a : Nat),
    (a < s.runLen → a ∉ s.hostWritten → s.readBitSource a = (s.sourceByte a, s)) ∧
    (∀ b, s.bitSource.read a = some b → s.sourceByte a = b) ∧
    (a ≥ s.runLen ∨ a ∈ s.hostWritten →
      s.readBitSource a = (Config.freeByte s.draws, { s with draws := s.draws + 1 }))

/-- A host write lands in the bit source, leaves its byte undefined for the run, so that a read of it is a draw, and touches no
other byte. 20_memory R66 (decision D15); that the byte stays so for the run is WrittenMarkStays. -/
def Obligations.HostWriteDuringRun : Prop :=
  ∀ (s : State) (ts : List Agent) (acts : List HostAct) (a : Nat) (b : Byte),
    s.turns = .host :: ts → s.hostActs = .writeByte a b :: acts →
      ∃ t, step s = .next t ∧ t.bitSource.read a = some b ∧ t.definedByte a = none ∧ t.hostActs = acts ∧
        ∀ x, x ≠ a → t.bitSource.read x = s.bitSource.read x ∧ t.definedByte x = s.definedByte x

/-- After an accepted CONFIGURE every byte below the declared length is seen by the fetches of the run as it stands in the
host's memory, as the host wrote it where it did. 20_memory R66 (decision D15); the length taken is the model's choice, log 6. -/
def Obligations.WritesBeforeRunAreSeen : Prop :=
  ∀ (s t : State) (spb : Nat) (shift : Int) (len notice : Nat),
    exec (.configure spb shift len notice) s = .next t → t.events = s.events ++ [.status .ok] →
      ∀ a, t.definedByte a = (if a < s.declaredLen then some (s.sourceByte a) else none) ∧
        ∀ b, s.bitSource.read a = some b → s.sourceByte a = b

/-- A byte the host wrote during a run stays undefined for the run: under every step but one that runs an accepted CONFIGURE,
which starts another run, the mark stays and a read of the byte is a draw. 20_memory R53, R66 (decision D15; the mark is the
model's, log 6). -/
def Obligations.WrittenMarkStays : Prop :=
  ∀ (s t : State) (a : Nat), a ∈ s.hostWritten → step s = .next t →
    (a ∈ t.hostWritten ∧ t.readBitSource a = (Config.freeByte t.draws, { t with draws := t.draws + 1 })) ∨
    (∃ ts spb shift len notice rest, s.turns = .cfg :: ts ∧
      decode .configuration s.configurationPort = .ok (.configure spb shift len notice, rest) ∧ AcceptedOperands spb shift len)

/-- Declaring a length changes the next run and not the current one: L and what every byte reads as for the run stay, and an
accepted CONFIGURE that comes next takes the length declared. 20_memory R52; when L is fixed is the model's choice, log 6. -/
def Obligations.DeclaredLengthForNextRun : Prop :=
  ∀ (s : State) (ts : List Agent) (acts : List HostAct) (n : Nat),
    s.turns = .host :: ts → s.hostActs = .declareLength n :: acts →
      ∃ t, step s = .next t ∧ t.declaredLen = n ∧ t.runLen = s.runLen ∧ t.hostActs = acts ∧
        (∀ a, t.definedByte a = s.definedByte a ∧ t.bitSource.read a = s.bitSource.read a) ∧
        ∀ (spb : Nat) (shift : Int) (len notice : Nat), AcceptedOperands spb shift len →
          ∃ u, exec (.configure spb shift len notice) t = .next u ∧ u.runLen = n

/-! ### Runs of SAMPLE -/

/-- Between two boundaries: after a boundary step (`SC = 0`, Active) the next `SPB` SAMPLEs fetch nothing, report nothing, and
add the one tone each: SC and PHASE after `k` of them. So a symbol lasts `SPB + 1` samples. 40_synthesizer R120, R123 (derived
by the spec). -/
def Obligations.SymbolDuration : Prop :=
  ∀ (s : State) (k : Nat), s.regs.cfg = true → s.regs.sc = 0 → k ≤ s.regs.spb.toNat →
    ∃ t, execTimes .sample k s = .next t ∧
      t.regs = { s.regs with
        sc := BitVec.ofNat 32 k
        phase := s.regs.phase + BitVec.ofNat 32 k * (if s.regs.cs then s.regs.inc1 else s.regs.inc0) } ∧
      reportsOf t.events = reportsOf s.events ∧ t.draws = s.draws

/-- The length of a run: after an accepted CONFIGURE and `n` SAMPLEs with no other step between, the block is Active and has
made `ceil(n / (SPB + 1))` fetches for every `n` up to `(stream_length + 5) * (SPB + 1)`; the next SAMPLE completes it.
40_synthesizer R121, R129 (derived by the spec; conflicts C1, C2, C4). -/
def Obligations.RunLength : Prop :=
  ∀ (s : State) (spb : Nat) (shift : Int) (len notice : Nat),
    (Instr.configure spb shift len notice).wf = true → AcceptedOperands spb shift len →
    ∃ t, exec (.configure spb shift len notice) s = .next t ∧
      (∀ n, n ≤ (len + 5) * (spb + 1) → ∃ u, execTimes .sample n t = .next u ∧ u.regs.cfg = true ∧
        u.regs.bp.toNat = (n + spb) / (spb + 1)) ∧
      (∃ u, execTimes .sample ((len + 5) * (spb + 1) + 1) t = .next u ∧ u.regs.cfg = false ∧
        u.regs.bp.toNat = len + 5)

/-- The reports of a run: while it lasts, the `m` fetches made so far have emitted the progress reports `1, 2, ..,
m / (NOTICE + 1)`; from completion on, however long SAMPLEs go on, there is exactly one more report, the completion report,
and it carries the number of progress reports. 40_synthesizer R122, R126 (derived by the spec; decision D6, conflict C3). -/
def Obligations.ReportsOfRun : Prop :=
  ∀ (s : State) (spb : Nat) (shift : Int) (len notice : Nat),
    (Instr.configure spb shift len notice).wf = true → AcceptedOperands spb shift len →
    ∃ t, exec (.configure spb shift len notice) s = .next t ∧
      (∀ n, n ≤ (len + 5) * (spb + 1) → ∃ u, execTimes .sample n t = .next u ∧
        reportsOf u.events = reportsOf t.events ++
          (List.range ((n + spb) / (spb + 1) / (notice + 1))).map (fun j => (BitVec.ofNat 32 (j + 1), false))) ∧
      (∀ n, n > (len + 5) * (spb + 1) → ∃ u, execTimes .sample n t = .next u ∧
        reportsOf u.events = reportsOf t.events ++
          (List.range ((len + 5) / (notice + 1))).map (fun j => (BitVec.ofNat 32 (j + 1), false)) ++
          [(BitVec.ofNat 32 ((len + 5) / (notice + 1)), true)])

/-- The phase of a complete run over a bit source longer than the stream's last byte and left alone: each of the
`stream_length + 5` fetched bits adds its tone `SPB + 1` times, and no draw is taken. 40_synthesizer R123 and 20_memory R55
(derived by the spec); that the run's L is the length declared at its CONFIGURE is the model's choice, log 6. -/
def Obligations.PhaseOfRun : Prop :=
  ∀ (s : State) (spb : Nat) (shift : Int) (len notice : Nat),
    (Instr.configure spb shift len notice).wf = true → AcceptedOperands spb shift len →
    (len + 4) / 8 < s.declaredLen →
    ∃ t u, exec (.configure spb shift len notice) s = .next t ∧
      execTimes .sample ((len + 5) * (spb + 1)) t = .next u ∧ u.draws = s.draws ∧
      u.regs.phase = t.regs.phase +
        BitVec.ofNat 32 (spb + 1) * toneSum t.regs.inc0 t.regs.inc1 (streamBit s) (len + 5)

/-- Silence: a completing SAMPLE emits its completion report and a zero sample and does not advance PHASE, and after it, as in
any Idle state, any number of SAMPLEs emit only zero samples and change no register; and whatever step of whatever agent is
taken in Idle, the block stays Idle, emits at most a zero sample or the reply of a rejected CONFIGURE, and changes no register but
by a reset, unless the step runs an accepted CONFIGURE. 40_synthesizer R101, R113. -/
def Obligations.SilenceUntilConfigured : Prop :=
  (∀ (s : State) (n : Nat), s.regs.cfg = false →
    ∃ t, execTimes .sample n s = .next t ∧ t.regs = s.regs ∧ t.events = s.events ++ List.replicate n (.sample 0 0) ∧
      t.draws = s.draws) ∧
  (∀ (s : State) (n : Nat), s.regs.cfg = true → s.regs.sc = s.regs.spb → s.regs.bp.toNat > s.regs.total.toNat →
    ∃ t progress, execTimes .sample (n + 1) s = .next t ∧ t.regs.phase = s.regs.phase ∧ t.regs.cfg = false ∧
      t.events = s.events ++ [.report progress true] ++ List.replicate (n + 1) (.sample 0 0)) ∧
  (∀ s t : State, s.regs.cfg = false → step s = .next t →
    (t.regs.cfg = false ∧ (t.regs = s.regs ∨ ∃ ts, s.turns = .rst :: ts) ∧
      (t.events = s.events ∨ t.events = s.events ++ [.sample 0 0] ∨
        ∃ r, t.events = s.events ++ [.status (.invalidConfig r)])) ∨
    (∃ ts spb shift len notice rest, s.turns = .cfg :: ts ∧
      decode .configuration s.configurationPort = .ok (.configure spb shift len notice, rest) ∧
      t.regs.cfg = true ∧ t.events = s.events ++ [.status .ok]))

/-- `n` SAMPLE frames at the front of the sample port and `n` turns of SYN run as `n` SAMPLEs in slot order. 20_memory R63,
30_encoding R84 (decision D10). -/
def Obligations.FramesRunInOrder : Prop :=
  ∀ (s : State) (n : Nat) (ws : List Word) (ts : List Agent),
    s.samplePort = List.replicate n 0x00000002#32 ++ ws → s.turns = List.replicate n .syn ++ ts →
      ∃ t, execTimes .sample n { s with samplePort := ws, turns := ts } = .next t ∧ Sys2Proof.core.run n s = .next t

/-- `EXECUTE n1; EXECUTE n2` leaves the same registers, events and draws as `EXECUTE (n1 + n2)`, the two being
compared under the same draws (log 4). 40_synthesizer R125 (derived by the spec). -/
def Obligations.ChunkingInvisible : Prop :=
  ∀ (s : State) (n1 n2 : Nat), s.turns = [] → s.samplePort = [] →
    ∃ t u, Sys2Proof.core.run (n1 + n2) (s.issueAll [.execute n1, .execute n2]) = .next t ∧
      Sys2Proof.core.run (n1 + n2) (s.issue (.execute (n1 + n2))) = .next u ∧
      t.regs = u.regs ∧ t.events = u.events ∧ t.draws = u.draws

/-- `EXECUTE n`, whatever SAMPLE frames wait before its own: the `k`-th sample of its own stands in slot `k` of its buffer, for
every `k < n`, and the buffer holds nothing more; `EXECUTE 0` changes nothing. 20_memory R57, R58, 30_encoding R84, 70_reset R189
(decisions D10, D14); how the slots are kept is log 11, how a line is issued log 14. -/
def Obligations.ExecuteFillsBuffer : Prop :=
  (∀ s : State, s.issue (.execute 0) = s) ∧
  ∀ (s : State) (m n : Nat), s.turns = List.replicate m .syn → s.samplePort = List.replicate m 0x00000002#32 → 0 < n →
    ∃ t, Sys2Proof.core.run (m + n) (s.issue (.execute n)) = .next t ∧ t.samplePort = [] ∧ t.turns = [] ∧
      (samplesOf t.events).length = (samplesOf s.events).length + m + n ∧
      (∀ k, k < n → ∃ i q, (samplesOf t.events)[(samplesOf s.events).length + m + k]? = some (i, q) ∧
        t.out.read (2 * k) = some i ∧ t.out.read (2 * k + 1) = some q) ∧
      ∀ a, 2 * n ≤ a → t.out.read a = none

/-! ### Whole-machine rules -/

/-- The state machine: what each command makes of Idle and Active, and that no other step but a reset leaves Active. A SAMPLE
leaves Active exactly at a boundary with `BP > TOTAL`; a CONFIGURE enters it exactly when it is accepted; a reset gives Idle.
41_configure R152 (derived by the spec). -/
def Obligations.IdleActiveMachine : Prop :=
  (∀ s : State, ∃ t, exec .sample s = .next t ∧
    (t.regs.cfg = true ↔
      s.regs.cfg = true ∧ ¬(s.regs.sc = s.regs.spb ∧ s.regs.bp.toNat > s.regs.total.toNat))) ∧
  (∀ (s : State) (spb : Nat) (shift : Int) (len notice : Nat), ∃ t,
    exec (.configure spb shift len notice) s = .next t ∧
      (t.regs.cfg = true ↔ AcceptedOperands spb shift len ∨ s.regs.cfg = true)) ∧
  (∀ (s t : State) (ts : List Agent), s.turns = .rst :: ts → step s = .next t → t.regs.cfg = false) ∧
  (∀ s t : State, step s = .next t → s.regs.cfg = true → t.regs.cfg = false →
    (∃ ts, s.turns = .rst :: ts) ∨
    (∃ ts rest, s.turns = .syn :: ts ∧ decode .sample s.samplePort = .ok (.sample, rest) ∧
      s.regs.sc = s.regs.spb ∧ s.regs.bp.toNat > s.regs.total.toNat)) ∧
  (∀ s t : State, step s = .next t → s.regs.cfg = false → t.regs.cfg = true →
    ∃ ts spb shift len notice rest, s.turns = .cfg :: ts ∧
      decode .configuration s.configurationPort = .ok (.configure spb shift len notice, rest) ∧ AcceptedOperands spb shift len)

/-- The one error comes only from CONFIGURE: whatever a step adds to the events, an `InvalidConfig` among it means that the
step ran a CONFIGURE whose operands do not pass the checks, from the configuration port, and that the reply is all it did: no
register and nothing else of the prior run is changed. 60_exceptions R160; which operands are outside the representable range is
the spec's decisions D4, D5 and D13. -/
def Obligations.ErrorOnlyFromConfigure : Prop :=
  ∀ s t : State, step s = .next t →
    ∃ es, t.events = s.events ++ es ∧
      ∀ r, .status (.invalidConfig r) ∈ es →
        ∃ ts spb shift len notice rest, s.turns = .cfg :: ts ∧
          decode .configuration s.configurationPort = .ok (.configure spb shift len notice, rest) ∧
          ¬AcceptedOperands spb shift len ∧
          t = { s with turns := ts, configurationPort := rest, events := s.events ++ [.status (.invalidConfig r)] }

/-- Which steps write the configuration registers and PHASE: only a reset, a CONFIGURE, and for PHASE a SAMPLE. 10_state R37
(derived by the spec). -/
def Obligations.ConfigurationWriters : Prop :=
  ∀ s t : State, step s = .next t →
    (∃ ts, s.turns = .rst :: ts) ∨
    (∃ ts spb shift len notice rest, s.turns = .cfg :: ts ∧
      decode .configuration s.configurationPort = .ok (.configure spb shift len notice, rest)) ∨
    (t.regs.spb = s.regs.spb ∧ t.regs.total = s.regs.total ∧ t.regs.inc0 = s.regs.inc0 ∧ t.regs.inc1 = s.regs.inc1 ∧
      t.regs.notice = s.regs.notice ∧ (t.regs.phase = s.regs.phase ∨ ∃ ts, s.turns = .syn :: ts))

/-- The words that carry replies and reports: status in bits [7:0], reason code in [15:8], zeros above; a report is its
progress and then 1 or 0. 30_encoding R80, R81, 60_exceptions R161 (decisions D13, D14). -/
def Obligations.ReplyWords : Prop :=
  Status.word .ok = 0x00000000#32 ∧ Status.word (.invalidConfig .samplesPerBitZero) = 0x00000101#32 ∧
    Status.word (.invalidConfig .streamTooLong) = 0x00000201#32 ∧
    Status.word (.invalidConfig .incrementOutOfRange) = 0x00000301#32 ∧
    ∀ progress, reportWords progress true = [progress, 1] ∧ reportWords progress false = [progress, 0]

/-- A line of text that is a command, issued to a machine with nothing waiting, is the machine's next step and runs that
command. 30_encoding R82 (decision D11); how a line is issued is log 14. -/
def Obligations.IssuedCommandRuns : Prop :=
  ∀ (s : State) (i : Instr), i.wf = true → s.turns = [] → s.port i.port = [] →
    ∃ t, step (s.issue (.command i)) = exec i t ∧ t.regs = s.regs ∧ t.events = s.events ∧ t.turns = [] ∧ t.port i.port = []

/-- The host's messages and buffers become frames: a `ConfigureFSK` message is the five words of a CONFIGURE on the
configuration port, and a buffer of `n` slots is `n` SAMPLE frames on the sample port. 20_memory R68, 30_encoding R72, R73,
R84 (decisions D10, D11, D15); the `k`-th frame is for slot `k`. That they are steps of HOST is the
model's form, log 13, and how the slots are kept is log 11. -/
def Obligations.HostSendsFrames : Prop :=
  ∀ (s : State) (ts : List Agent) (acts : List HostAct), s.turns = .host :: ts →
    (∀ w1 w2 w3 w4, s.hostActs = .message w1 w2 w3 w4 :: acts →
      ∃ t, step s = .next t ∧ t.configurationPort = s.configurationPort ++ [0x00000001#32, w1, w2, w3, w4] ∧
        t.samplePort = s.samplePort ∧ t.hostActs = acts ∧
        (s.configurationPort = [] →
          decode .configuration t.configurationPort = .ok (.configure w1.toNat w2.toInt w3.toNat w4.toNat, []))) ∧
    (∀ n, s.hostActs = .execute n :: acts →
      ∃ t, step s = .next t ∧ t.samplePort = s.samplePort ++ List.replicate n 0x00000002#32 ∧
        t.configurationPort = s.configurationPort ∧ t.hostActs = acts ∧
        ∀ k, k < n → t.slots[s.samplePort.length + k]? = some (some k))

/-- A literal outside the range of its field is an assembler error: the command of every line that is accepted is well formed,
so it has a frame. 30_encoding R82 (decision D11). -/
def Obligations.TextLiteralsInRange : Prop :=
  ∀ (text : List Char) (i : Instr), parseLine text = .ok (.command i) → i.wf = true ∧ (encode i).length = i.frameLength

/-- The tone in Hz: with the default scale factor `floor(2^32 / F_S)` the increment an accepted CONFIGURE loads turns the
table at `shift` Hz less at most `|shift| * F_S / 2^32` Hz, never past `shift`. Written over integers, multiplied through by
`2^32`. 40_synthesizer R127 (derived by the spec; decision D2). -/
def Obligations.ToneTruncation : Prop :=
  ∀ (fs spb : Nat) (shift : Int) (len notice : Nat) (table : BitVec 8 → Byte) (s : State), 1 ≤ fs →
    configureError (Params.ofRate fs table) spb shift len = none →
    ∃ t, s.configure (Params.ofRate fs table) spb shift len notice = t ∧
      (s32 t.regs.inc0 * fs).natAbs ≤ (shift * 2 ^ 32).natAbs ∧
      (shift * 2 ^ 32 - s32 t.regs.inc0 * fs).natAbs ≤ shift.natAbs * fs
end

