-- ==== Sys2Proof/Laws/Memory.lean ====
section
/-! SUPPORT. The laws of host memory: a read after a write, and the canonical form kept by every memory operation. -/

namespace Sys2Proof.Machine

@[simp] theorem Memory.read_nil (x : Nat) : Memory.read [] x = none := rfl

theorem Memory.read_write_same (m : Memory) (x : Nat) (v : Byte) : (m.write x v).read x = some v := by
  induction m with
  | nil => simp [Memory.write, Memory.read]
  | cons c m ih =>
    obtain ⟨a, b⟩ := c
    unfold Memory.write
    split_ifs with h1 h2
    · simp [Memory.read]
    · simp [Memory.read, h2]
    · have : ¬ a = x := fun h => h2 h.symm
      simp [Memory.read, this, ih]

theorem Memory.read_write_other (m : Memory) {x y : Nat} (v : Byte) (h : y ≠ x) : (m.write x v).read y = m.read y := by
  induction m with
  | nil => simp [Memory.write, Memory.read, h.symm]
  | cons c m ih =>
    obtain ⟨a, b⟩ := c
    unfold Memory.write
    split_ifs with h1 h2
    · simp [Memory.read, h.symm]
    · subst h2; simp [Memory.read, h.symm]
    · simp [Memory.read, ih]

/-- Every address of a memory after a write is the written one or one that was there. -/
theorem Memory.mem_write {m : Memory} {x : Nat} {v : Byte} {c : Host.Cell} (h : c ∈ m.write x v) :
    c.1 = x ∨ c ∈ m := by
  induction m with
  | nil => simp [Memory.write] at h; simp [h]
  | cons d m ih =>
    obtain ⟨a, b⟩ := d
    unfold Memory.write at h
    split_ifs at h with h1 h2
    · rcases List.mem_cons.1 h with h | h
      · simp [h]
      · exact .inr h
    · rcases List.mem_cons.1 h with h | h
      · simp [h, h2]
      · exact .inr (List.mem_cons_of_mem _ h)
    · rcases List.mem_cons.1 h with h | h
      · simp [h]
      · exact (ih h).imp id (List.mem_cons_of_mem _)

theorem Memory.wf_write {m : Memory} (x : Nat) (v : Byte) (h : Memory.wf m) : Memory.wf (m.write x v) := by
  induction m with
  | nil => simp [Memory.write, Memory.wf]
  | cons d m ih =>
    obtain ⟨a, b⟩ := d
    obtain ⟨hd, hm⟩ := List.pairwise_cons.1 h
    unfold Memory.write
    split_ifs with h1 h2
    · refine List.pairwise_cons.2 ⟨fun c hc => ?_, h⟩
      rcases List.mem_cons.1 hc with rfl | hc
      · exact h1
      · exact lt_trans h1 (hd c hc)
    · exact List.pairwise_cons.2 ⟨hd, hm⟩
    · refine List.pairwise_cons.2 ⟨fun c hc => ?_, ih hm⟩
      rcases Memory.mem_write hc with h' | hc
      · simp only [h']; omega
      · exact hd c hc

/-- What every byte reads as after a pair is written into slot `k` (20_memory R58). -/
theorem Memory.read_writePair (m : Memory) (k : Nat) (i q : Byte) :
    (m.writePair k i q).read (2 * k) = some i ∧ (m.writePair k i q).read (2 * k + 1) = some q ∧
      ∀ a, a ≠ 2 * k → a ≠ 2 * k + 1 → (m.writePair k i q).read a = m.read a := by
  refine ⟨?_, Memory.read_write_same _ _ _, fun a h1 h2 => ?_⟩
  · rw [Memory.writePair, Memory.read_write_other _ _ (by omega), Memory.read_write_same]
  · rw [Memory.writePair, Memory.read_write_other _ _ h2, Memory.read_write_other _ _ h1]

theorem Memory.wf_writePair {m : Memory} (k : Nat) (i q : Byte) (h : Memory.wf m) : Memory.wf (m.writePair k i q) :=
  Memory.wf_write _ _ (Memory.wf_write _ _ h)

theorem mem_insertAddr {l : List Nat} {x y : Nat} : y ∈ insertAddr l x ↔ y = x ∨ y ∈ l := by
  induction l with
  | nil => simp [insertAddr]
  | cons a l ih =>
    unfold insertAddr
    split_ifs with h1 h2
    · simp
    · subst h2; simp
    · simp [ih]; tauto

theorem sorted_insertAddr {l : List Nat} (x : Nat) (h : l.Pairwise (fun a b => a < b)) :
    (insertAddr l x).Pairwise (fun a b => a < b) := by
  induction l with
  | nil => simp [insertAddr]
  | cons a l ih =>
    obtain ⟨hd, hl⟩ := List.pairwise_cons.1 h
    unfold insertAddr
    split_ifs with h1 h2
    · refine List.pairwise_cons.2 ⟨fun c hc => ?_, h⟩
      rcases List.mem_cons.1 hc with rfl | hc
      · exact h1
      · exact lt_trans h1 (hd c hc)
    · exact h
    · refine List.pairwise_cons.2 ⟨fun c hc => ?_, ih hl⟩
      rcases mem_insertAddr.1 hc with rfl | hc
      · omega
      · exact hd c hc

end Sys2Proof.Machine
end

