-- ==== Sys2Proof/Laws/State.lean ====
section
/-! SUPPORT. What each update of the registers and of the state leaves in each field, so that no proof unfolds a record
update. -/

namespace Sys2Proof.Machine

/-! ### Registers -/

@[simp] theorem Regs.fetched_spb (r : Regs) (bit : Bool) : (r.fetched bit).spb = r.spb := rfl
@[simp] theorem Regs.fetched_total (r : Regs) (bit : Bool) : (r.fetched bit).total = r.total := rfl
@[simp] theorem Regs.fetched_inc0 (r : Regs) (bit : Bool) : (r.fetched bit).inc0 = r.inc0 := rfl
@[simp] theorem Regs.fetched_inc1 (r : Regs) (bit : Bool) : (r.fetched bit).inc1 = r.inc1 := rfl
@[simp] theorem Regs.fetched_notice (r : Regs) (bit : Bool) : (r.fetched bit).notice = r.notice := rfl
@[simp] theorem Regs.fetched_phase (r : Regs) (bit : Bool) : (r.fetched bit).phase = r.phase := rfl
@[simp] theorem Regs.fetched_bp (r : Regs) (bit : Bool) : (r.fetched bit).bp = r.bp + 1 := rfl
@[simp] theorem Regs.fetched_sc (r : Regs) (bit : Bool) : (r.fetched bit).sc = r.sc := rfl
@[simp] theorem Regs.fetched_cs (r : Regs) (bit : Bool) : (r.fetched bit).cs = bit := rfl
@[simp] theorem Regs.fetched_cfg (r : Regs) (bit : Bool) : (r.fetched bit).cfg = r.cfg := rfl
@[simp] theorem Regs.fetched_pcnt (r : Regs) (bit : Bool) : (r.fetched bit).pcnt = r.pcnt := rfl
@[simp] theorem Regs.fetched_pacc (r : Regs) (bit : Bool) : (r.fetched bit).pacc = r.pacc := rfl

@[simp] theorem Regs.reported_spb (r : Regs) : (r.reported).spb = r.spb := rfl
@[simp] theorem Regs.reported_total (r : Regs) : (r.reported).total = r.total := rfl
@[simp] theorem Regs.reported_inc0 (r : Regs) : (r.reported).inc0 = r.inc0 := rfl
@[simp] theorem Regs.reported_inc1 (r : Regs) : (r.reported).inc1 = r.inc1 := rfl
@[simp] theorem Regs.reported_notice (r : Regs) : (r.reported).notice = r.notice := rfl
@[simp] theorem Regs.reported_phase (r : Regs) : (r.reported).phase = r.phase := rfl
@[simp] theorem Regs.reported_bp (r : Regs) : (r.reported).bp = r.bp := rfl
@[simp] theorem Regs.reported_sc (r : Regs) : (r.reported).sc = r.sc := rfl
@[simp] theorem Regs.reported_cs (r : Regs) : (r.reported).cs = r.cs := rfl
@[simp] theorem Regs.reported_cfg (r : Regs) : (r.reported).cfg = r.cfg := rfl
@[simp] theorem Regs.reported_pcnt (r : Regs) : (r.reported).pcnt = 0 := rfl
@[simp] theorem Regs.reported_pacc (r : Regs) : (r.reported).pacc = r.pacc + 1 := rfl

@[simp] theorem Regs.countedFetch_spb (r : Regs) : (r.countedFetch).spb = r.spb := rfl
@[simp] theorem Regs.countedFetch_total (r : Regs) : (r.countedFetch).total = r.total := rfl
@[simp] theorem Regs.countedFetch_inc0 (r : Regs) : (r.countedFetch).inc0 = r.inc0 := rfl
@[simp] theorem Regs.countedFetch_inc1 (r : Regs) : (r.countedFetch).inc1 = r.inc1 := rfl
@[simp] theorem Regs.countedFetch_notice (r : Regs) : (r.countedFetch).notice = r.notice := rfl
@[simp] theorem Regs.countedFetch_phase (r : Regs) : (r.countedFetch).phase = r.phase := rfl
@[simp] theorem Regs.countedFetch_bp (r : Regs) : (r.countedFetch).bp = r.bp := rfl
@[simp] theorem Regs.countedFetch_sc (r : Regs) : (r.countedFetch).sc = r.sc := rfl
@[simp] theorem Regs.countedFetch_cs (r : Regs) : (r.countedFetch).cs = r.cs := rfl
@[simp] theorem Regs.countedFetch_cfg (r : Regs) : (r.countedFetch).cfg = r.cfg := rfl
@[simp] theorem Regs.countedFetch_pcnt (r : Regs) : (r.countedFetch).pcnt = r.pcnt + 1 := rfl
@[simp] theorem Regs.countedFetch_pacc (r : Regs) : (r.countedFetch).pacc = r.pacc := rfl

@[simp] theorem Regs.completed_spb (r : Regs) : (r.completed).spb = r.spb := rfl
@[simp] theorem Regs.completed_total (r : Regs) : (r.completed).total = r.total := rfl
@[simp] theorem Regs.completed_inc0 (r : Regs) : (r.completed).inc0 = r.inc0 := rfl
@[simp] theorem Regs.completed_inc1 (r : Regs) : (r.completed).inc1 = r.inc1 := rfl
@[simp] theorem Regs.completed_notice (r : Regs) : (r.completed).notice = r.notice := rfl
@[simp] theorem Regs.completed_phase (r : Regs) : (r.completed).phase = r.phase := rfl
@[simp] theorem Regs.completed_bp (r : Regs) : (r.completed).bp = r.bp := rfl
@[simp] theorem Regs.completed_sc (r : Regs) : (r.completed).sc = r.sc := rfl
@[simp] theorem Regs.completed_cs (r : Regs) : (r.completed).cs = false := rfl
@[simp] theorem Regs.completed_cfg (r : Regs) : (r.completed).cfg = false := rfl
@[simp] theorem Regs.completed_pcnt (r : Regs) : (r.completed).pcnt = r.pcnt := rfl
@[simp] theorem Regs.completed_pacc (r : Regs) : (r.completed).pacc = r.pacc := rfl

@[simp] theorem Regs.restartedSymbol_spb (r : Regs) : (r.restartedSymbol).spb = r.spb := rfl
@[simp] theorem Regs.restartedSymbol_total (r : Regs) : (r.restartedSymbol).total = r.total := rfl
@[simp] theorem Regs.restartedSymbol_inc0 (r : Regs) : (r.restartedSymbol).inc0 = r.inc0 := rfl
@[simp] theorem Regs.restartedSymbol_inc1 (r : Regs) : (r.restartedSymbol).inc1 = r.inc1 := rfl
@[simp] theorem Regs.restartedSymbol_notice (r : Regs) : (r.restartedSymbol).notice = r.notice := rfl
@[simp] theorem Regs.restartedSymbol_phase (r : Regs) : (r.restartedSymbol).phase = r.phase := rfl
@[simp] theorem Regs.restartedSymbol_bp (r : Regs) : (r.restartedSymbol).bp = r.bp := rfl
@[simp] theorem Regs.restartedSymbol_sc (r : Regs) : (r.restartedSymbol).sc = 0 := rfl
@[simp] theorem Regs.restartedSymbol_cs (r : Regs) : (r.restartedSymbol).cs = r.cs := rfl
@[simp] theorem Regs.restartedSymbol_cfg (r : Regs) : (r.restartedSymbol).cfg = r.cfg := rfl
@[simp] theorem Regs.restartedSymbol_pcnt (r : Regs) : (r.restartedSymbol).pcnt = r.pcnt := rfl
@[simp] theorem Regs.restartedSymbol_pacc (r : Regs) : (r.restartedSymbol).pacc = r.pacc := rfl

@[simp] theorem Regs.countedSample_spb (r : Regs) : (r.countedSample).spb = r.spb := rfl
@[simp] theorem Regs.countedSample_total (r : Regs) : (r.countedSample).total = r.total := rfl
@[simp] theorem Regs.countedSample_inc0 (r : Regs) : (r.countedSample).inc0 = r.inc0 := rfl
@[simp] theorem Regs.countedSample_inc1 (r : Regs) : (r.countedSample).inc1 = r.inc1 := rfl
@[simp] theorem Regs.countedSample_notice (r : Regs) : (r.countedSample).notice = r.notice := rfl
@[simp] theorem Regs.countedSample_phase (r : Regs) : (r.countedSample).phase = r.phase := rfl
@[simp] theorem Regs.countedSample_bp (r : Regs) : (r.countedSample).bp = r.bp := rfl
@[simp] theorem Regs.countedSample_sc (r : Regs) : (r.countedSample).sc = r.sc + 1 := rfl
@[simp] theorem Regs.countedSample_cs (r : Regs) : (r.countedSample).cs = r.cs := rfl
@[simp] theorem Regs.countedSample_cfg (r : Regs) : (r.countedSample).cfg = r.cfg := rfl
@[simp] theorem Regs.countedSample_pcnt (r : Regs) : (r.countedSample).pcnt = r.pcnt := rfl
@[simp] theorem Regs.countedSample_pacc (r : Regs) : (r.countedSample).pacc = r.pacc := rfl

@[simp] theorem Regs.advanced_spb (r : Regs) : (r.advanced).spb = r.spb := rfl
@[simp] theorem Regs.advanced_total (r : Regs) : (r.advanced).total = r.total := rfl
@[simp] theorem Regs.advanced_inc0 (r : Regs) : (r.advanced).inc0 = r.inc0 := rfl
@[simp] theorem Regs.advanced_inc1 (r : Regs) : (r.advanced).inc1 = r.inc1 := rfl
@[simp] theorem Regs.advanced_notice (r : Regs) : (r.advanced).notice = r.notice := rfl
@[simp] theorem Regs.advanced_phase (r : Regs) : (r.advanced).phase = r.phase + r.tone := rfl
@[simp] theorem Regs.advanced_bp (r : Regs) : (r.advanced).bp = r.bp := rfl
@[simp] theorem Regs.advanced_sc (r : Regs) : (r.advanced).sc = r.sc := rfl
@[simp] theorem Regs.advanced_cs (r : Regs) : (r.advanced).cs = r.cs := rfl
@[simp] theorem Regs.advanced_cfg (r : Regs) : (r.advanced).cfg = r.cfg := rfl
@[simp] theorem Regs.advanced_pcnt (r : Regs) : (r.advanced).pcnt = r.pcnt := rfl
@[simp] theorem Regs.advanced_pacc (r : Regs) : (r.advanced).pacc = r.pacc := rfl

@[simp] theorem Regs.loaded_spb (p : Params) (spb : Nat) (shift : Int) (len notice : Nat) (r : Regs) :
    (r.loaded p spb shift len notice).spb = u32 spb := rfl
@[simp] theorem Regs.loaded_total (p : Params) (spb : Nat) (shift : Int) (len notice : Nat) (r : Regs) :
    (r.loaded p spb shift len notice).total = u32 ((len : Int) + 4) := rfl
@[simp] theorem Regs.loaded_inc0 (p : Params) (spb : Nat) (shift : Int) (len notice : Nat) (r : Regs) :
    (r.loaded p spb shift len notice).inc0 = u32 (increment p shift) := rfl
@[simp] theorem Regs.loaded_inc1 (p : Params) (spb : Nat) (shift : Int) (len notice : Nat) (r : Regs) :
    (r.loaded p spb shift len notice).inc1 = u32 (-increment p shift) := rfl
@[simp] theorem Regs.loaded_notice (p : Params) (spb : Nat) (shift : Int) (len notice : Nat) (r : Regs) :
    (r.loaded p spb shift len notice).notice = u32 notice := rfl
@[simp] theorem Regs.loaded_phase (p : Params) (spb : Nat) (shift : Int) (len notice : Nat) (r : Regs) :
    (r.loaded p spb shift len notice).phase = if p.phaseReset then 0 else r.phase := rfl
@[simp] theorem Regs.loaded_bp (p : Params) (spb : Nat) (shift : Int) (len notice : Nat) (r : Regs) :
    (r.loaded p spb shift len notice).bp = 0 := rfl
@[simp] theorem Regs.loaded_sc (p : Params) (spb : Nat) (shift : Int) (len notice : Nat) (r : Regs) :
    (r.loaded p spb shift len notice).sc = u32 spb := rfl
@[simp] theorem Regs.loaded_cs (p : Params) (spb : Nat) (shift : Int) (len notice : Nat) (r : Regs) :
    (r.loaded p spb shift len notice).cs = false := rfl
@[simp] theorem Regs.loaded_cfg (p : Params) (spb : Nat) (shift : Int) (len notice : Nat) (r : Regs) :
    (r.loaded p spb shift len notice).cfg = true := rfl
@[simp] theorem Regs.loaded_pcnt (p : Params) (spb : Nat) (shift : Int) (len notice : Nat) (r : Regs) :
    (r.loaded p spb shift len notice).pcnt = 0 := rfl
@[simp] theorem Regs.loaded_pacc (p : Params) (spb : Nat) (shift : Int) (len notice : Nat) (r : Regs) :
    (r.loaded p spb shift len notice).pacc = 0 := rfl

@[simp] theorem Regs.initial_spb (phase : Word) : (Regs.initial phase).spb = 0 := rfl
@[simp] theorem Regs.initial_total (phase : Word) : (Regs.initial phase).total = 0 := rfl
@[simp] theorem Regs.initial_inc0 (phase : Word) : (Regs.initial phase).inc0 = 0 := rfl
@[simp] theorem Regs.initial_inc1 (phase : Word) : (Regs.initial phase).inc1 = 0 := rfl
@[simp] theorem Regs.initial_notice (phase : Word) : (Regs.initial phase).notice = 0 := rfl
@[simp] theorem Regs.initial_phase (phase : Word) : (Regs.initial phase).phase = phase := rfl
@[simp] theorem Regs.initial_bp (phase : Word) : (Regs.initial phase).bp = 0 := rfl
@[simp] theorem Regs.initial_sc (phase : Word) : (Regs.initial phase).sc = 0 := rfl
@[simp] theorem Regs.initial_cs (phase : Word) : (Regs.initial phase).cs = false := rfl
@[simp] theorem Regs.initial_cfg (phase : Word) : (Regs.initial phase).cfg = false := rfl
@[simp] theorem Regs.initial_pcnt (phase : Word) : (Regs.initial phase).pcnt = 0 := rfl
@[simp] theorem Regs.initial_pacc (phase : Word) : (Regs.initial phase).pacc = 0 := rfl

/-! ### State -/

@[simp] theorem State.withRegs_regs (s : State) (r : Regs) : (s.withRegs r).regs = r := rfl
@[simp] theorem State.withRegs_bitSource (s : State) (r : Regs) : (s.withRegs r).bitSource = s.bitSource := rfl
@[simp] theorem State.withRegs_runLen (s : State) (r : Regs) : (s.withRegs r).runLen = s.runLen := rfl
@[simp] theorem State.withRegs_declaredLen (s : State) (r : Regs) : (s.withRegs r).declaredLen = s.declaredLen := rfl
@[simp] theorem State.withRegs_hostWritten (s : State) (r : Regs) : (s.withRegs r).hostWritten = s.hostWritten := rfl
@[simp] theorem State.withRegs_configurationPort (s : State) (r : Regs) : (s.withRegs r).configurationPort = s.configurationPort := rfl
@[simp] theorem State.withRegs_samplePort (s : State) (r : Regs) : (s.withRegs r).samplePort = s.samplePort := rfl
@[simp] theorem State.withRegs_hostActs (s : State) (r : Regs) : (s.withRegs r).hostActs = s.hostActs := rfl
@[simp] theorem State.withRegs_turns (s : State) (r : Regs) : (s.withRegs r).turns = s.turns := rfl
@[simp] theorem State.withRegs_slots (s : State) (r : Regs) : (s.withRegs r).slots = s.slots := rfl
@[simp] theorem State.withRegs_lone (s : State) (r : Regs) : (s.withRegs r).lone = s.lone := rfl
@[simp] theorem State.withRegs_out (s : State) (r : Regs) : (s.withRegs r).out = s.out := rfl
@[simp] theorem State.withRegs_events (s : State) (r : Regs) : (s.withRegs r).events = s.events := rfl
@[simp] theorem State.withRegs_draws (s : State) (r : Regs) : (s.withRegs r).draws = s.draws := rfl

@[simp] theorem State.emit_regs (s : State) (e : Event) : (s.emit e).regs = s.regs := rfl
@[simp] theorem State.emit_bitSource (s : State) (e : Event) : (s.emit e).bitSource = s.bitSource := rfl
@[simp] theorem State.emit_runLen (s : State) (e : Event) : (s.emit e).runLen = s.runLen := rfl
@[simp] theorem State.emit_declaredLen (s : State) (e : Event) : (s.emit e).declaredLen = s.declaredLen := rfl
@[simp] theorem State.emit_hostWritten (s : State) (e : Event) : (s.emit e).hostWritten = s.hostWritten := rfl
@[simp] theorem State.emit_configurationPort (s : State) (e : Event) : (s.emit e).configurationPort = s.configurationPort := rfl
@[simp] theorem State.emit_samplePort (s : State) (e : Event) : (s.emit e).samplePort = s.samplePort := rfl
@[simp] theorem State.emit_hostActs (s : State) (e : Event) : (s.emit e).hostActs = s.hostActs := rfl
@[simp] theorem State.emit_turns (s : State) (e : Event) : (s.emit e).turns = s.turns := rfl
@[simp] theorem State.emit_slots (s : State) (e : Event) : (s.emit e).slots = s.slots := rfl
@[simp] theorem State.emit_lone (s : State) (e : Event) : (s.emit e).lone = s.lone := rfl
@[simp] theorem State.emit_out (s : State) (e : Event) : (s.emit e).out = s.out := rfl
@[simp] theorem State.emit_events (s : State) (e : Event) : (s.emit e).events = s.events ++ [e] := rfl
@[simp] theorem State.emit_draws (s : State) (e : Event) : (s.emit e).draws = s.draws := rfl

@[simp] theorem State.raise_regs (s : State) (r : Reason) : (s.raise r).regs = s.regs := rfl
@[simp] theorem State.raise_bitSource (s : State) (r : Reason) : (s.raise r).bitSource = s.bitSource := rfl
@[simp] theorem State.raise_runLen (s : State) (r : Reason) : (s.raise r).runLen = s.runLen := rfl
@[simp] theorem State.raise_declaredLen (s : State) (r : Reason) : (s.raise r).declaredLen = s.declaredLen := rfl
@[simp] theorem State.raise_hostWritten (s : State) (r : Reason) : (s.raise r).hostWritten = s.hostWritten := rfl
@[simp] theorem State.raise_configurationPort (s : State) (r : Reason) : (s.raise r).configurationPort = s.configurationPort := rfl
@[simp] theorem State.raise_samplePort (s : State) (r : Reason) : (s.raise r).samplePort = s.samplePort := rfl
@[simp] theorem State.raise_hostActs (s : State) (r : Reason) : (s.raise r).hostActs = s.hostActs := rfl
@[simp] theorem State.raise_turns (s : State) (r : Reason) : (s.raise r).turns = s.turns := rfl
@[simp] theorem State.raise_slots (s : State) (r : Reason) : (s.raise r).slots = s.slots := rfl
@[simp] theorem State.raise_lone (s : State) (r : Reason) : (s.raise r).lone = s.lone := rfl
@[simp] theorem State.raise_out (s : State) (r : Reason) : (s.raise r).out = s.out := rfl
@[simp] theorem State.raise_events (s : State) (r : Reason) : (s.raise r).events = s.events ++ [.status (.invalidConfig r)] := rfl
@[simp] theorem State.raise_draws (s : State) (r : Reason) : (s.raise r).draws = s.draws := rfl

@[simp] theorem State.replyOk_regs (s : State) : (s.replyOk).regs = s.regs := rfl
@[simp] theorem State.replyOk_bitSource (s : State) : (s.replyOk).bitSource = s.bitSource := rfl
@[simp] theorem State.replyOk_runLen (s : State) : (s.replyOk).runLen = s.runLen := rfl
@[simp] theorem State.replyOk_declaredLen (s : State) : (s.replyOk).declaredLen = s.declaredLen := rfl
@[simp] theorem State.replyOk_hostWritten (s : State) : (s.replyOk).hostWritten = s.hostWritten := rfl
@[simp] theorem State.replyOk_configurationPort (s : State) : (s.replyOk).configurationPort = s.configurationPort := rfl
@[simp] theorem State.replyOk_samplePort (s : State) : (s.replyOk).samplePort = s.samplePort := rfl
@[simp] theorem State.replyOk_hostActs (s : State) : (s.replyOk).hostActs = s.hostActs := rfl
@[simp] theorem State.replyOk_turns (s : State) : (s.replyOk).turns = s.turns := rfl
@[simp] theorem State.replyOk_slots (s : State) : (s.replyOk).slots = s.slots := rfl
@[simp] theorem State.replyOk_lone (s : State) : (s.replyOk).lone = s.lone := rfl
@[simp] theorem State.replyOk_out (s : State) : (s.replyOk).out = s.out := rfl
@[simp] theorem State.replyOk_events (s : State) : (s.replyOk).events = s.events ++ [.status .ok] := rfl
@[simp] theorem State.replyOk_draws (s : State) : (s.replyOk).draws = s.draws := rfl

@[simp] theorem State.startRun_regs (s : State) : (s.startRun).regs = s.regs := rfl
@[simp] theorem State.startRun_bitSource (s : State) : (s.startRun).bitSource = s.bitSource := rfl
@[simp] theorem State.startRun_runLen (s : State) : (s.startRun).runLen = s.declaredLen := rfl
@[simp] theorem State.startRun_declaredLen (s : State) : (s.startRun).declaredLen = s.declaredLen := rfl
@[simp] theorem State.startRun_hostWritten (s : State) : (s.startRun).hostWritten = [] := rfl
@[simp] theorem State.startRun_configurationPort (s : State) : (s.startRun).configurationPort = s.configurationPort := rfl
@[simp] theorem State.startRun_samplePort (s : State) : (s.startRun).samplePort = s.samplePort := rfl
@[simp] theorem State.startRun_hostActs (s : State) : (s.startRun).hostActs = s.hostActs := rfl
@[simp] theorem State.startRun_turns (s : State) : (s.startRun).turns = s.turns := rfl
@[simp] theorem State.startRun_slots (s : State) : (s.startRun).slots = s.slots := rfl
@[simp] theorem State.startRun_lone (s : State) : (s.startRun).lone = s.lone := rfl
@[simp] theorem State.startRun_out (s : State) : (s.startRun).out = s.out := rfl
@[simp] theorem State.startRun_events (s : State) : (s.startRun).events = s.events := rfl
@[simp] theorem State.startRun_draws (s : State) : (s.startRun).draws = s.draws := rfl

@[simp] theorem State.resetStep_regs (s : State) : (s.resetStep).regs = Regs.initial (Config.freePhase s.draws) := rfl
@[simp] theorem State.resetStep_bitSource (s : State) : (s.resetStep).bitSource = s.bitSource := rfl
@[simp] theorem State.resetStep_runLen (s : State) : (s.resetStep).runLen = s.runLen := rfl
@[simp] theorem State.resetStep_declaredLen (s : State) : (s.resetStep).declaredLen = s.declaredLen := rfl
@[simp] theorem State.resetStep_hostWritten (s : State) : (s.resetStep).hostWritten = s.hostWritten := rfl
@[simp] theorem State.resetStep_configurationPort (s : State) : (s.resetStep).configurationPort = s.configurationPort := rfl
@[simp] theorem State.resetStep_samplePort (s : State) : (s.resetStep).samplePort = s.samplePort := rfl
@[simp] theorem State.resetStep_hostActs (s : State) : (s.resetStep).hostActs = s.hostActs := rfl
@[simp] theorem State.resetStep_turns (s : State) : (s.resetStep).turns = s.turns := rfl
@[simp] theorem State.resetStep_slots (s : State) : (s.resetStep).slots = s.slots := rfl
@[simp] theorem State.resetStep_lone (s : State) : (s.resetStep).lone = s.lone := rfl
@[simp] theorem State.resetStep_out (s : State) : (s.resetStep).out = s.out := rfl
@[simp] theorem State.resetStep_events (s : State) : (s.resetStep).events = s.events := rfl
@[simp] theorem State.resetStep_draws (s : State) : (s.resetStep).draws = s.draws + 1 := rfl

end Sys2Proof.Machine
end

