-- ==== Sys2Proof/Laws/Ops.lean ====
section
/-! SUPPORT. For each shared operation one lemma that says everything it can do; proofs cite these instead of unfolding. -/

namespace Sys2Proof.Machine

/-! ### Bit source (20_memory R53) -/

theorem State.readBitSource_defined {s : State} {a : Nat} {b : Byte} (h : s.definedByte a = some b) :
    s.readBitSource a = (b, s) := by simp [State.readBitSource, h]

theorem State.readBitSource_draw {s : State} {a : Nat} (h : s.definedByte a = none) :
    s.readBitSource a = (Config.freeByte s.draws, { s with draws := s.draws + 1 }) := by simp [State.readBitSource, h]

/-- A read changes nothing but the draw counter. -/
theorem State.readBitSource_state (s : State) (a : Nat) :
    (s.readBitSource a).2 = { s with draws := (s.readBitSource a).2.draws } := by
  cases h : s.definedByte a <;> simp [State.readBitSource, h]

/-- The byte a read answers: the defined one, or the draw. -/
theorem State.readBitSource_byte (s : State) (a : Nat) :
    (s.readBitSource a).1 = (s.definedByte a).getD (Config.freeByte s.draws) := by
  cases h : s.definedByte a <;> simp [State.readBitSource, h]

/-- A read takes a draw exactly when the byte is not defined. -/
theorem State.readBitSource_draws (s : State) (a : Nat) :
    (s.readBitSource a).2.draws = if (s.definedByte a).isSome then s.draws else s.draws + 1 := by
  cases h : s.definedByte a <;> simp [State.readBitSource, h]

theorem State.definedByte_eq_some {s : State} {a : Nat} {b : Byte} :
    s.definedByte a = some b ↔ (a < s.runLen ∧ a ∉ s.hostWritten) ∧ s.sourceByte a = b := by
  simp [State.definedByte]

theorem State.definedByte_eq_none {s : State} {a : Nat} :
    s.definedByte a = none ↔ s.runLen ≤ a ∨ a ∈ s.hostWritten := by
  simp only [State.definedByte, ite_eq_right_iff, reduceCtorEq, imp_false, not_and_or, not_lt, not_not]

theorem State.sourceByte_listed {s : State} {a : Nat} {b : Byte} (h : s.bitSource.read a = some b) : s.sourceByte a = b := by
  simp [State.sourceByte, h]

/-! ### Sample buffer (20_memory R57, R58) -/

/-- A slot write changes only the two buffers, and takes one entry off the slots. -/
theorem State.writeSlot_eq (s : State) (i q : Byte) :
    s.writeSlot i q = { s with out := (s.writeSlot i q).out, lone := (s.writeSlot i q).lone, slots := s.slots.tail } := by
  unfold State.writeSlot; cases s.slots.headD none <;> rfl

theorem State.writeSlot_out (s : State) (i q : Byte) :
    (s.writeSlot i q).out =
      match s.slots.headD none with
      | some k => Memory.writePair (if k = 0 then [] else s.out) k i q
      | none => s.out := by
  unfold State.writeSlot; cases s.slots.headD none <;> rfl

theorem State.writeSlot_lone (s : State) (i q : Byte) :
    (s.writeSlot i q).lone =
      match s.slots.headD none with
      | some _ => s.lone
      | none => Memory.writePair [] 0 i q := by
  unfold State.writeSlot; cases s.slots.headD none <;> rfl

@[simp] theorem State.writeSlot_slots (s : State) (i q : Byte) : (s.writeSlot i q).slots = s.slots.tail := by
  rw [State.writeSlot_eq]

@[simp] theorem State.output_regs (s : State) (i q : Byte) : (s.output i q).regs = s.regs := by
  simp only [State.output, State.emit_regs]; rw [State.writeSlot_eq]

@[simp] theorem State.output_bitSource (s : State) (i q : Byte) : (s.output i q).bitSource = s.bitSource := by
  simp only [State.output, State.emit_bitSource]; rw [State.writeSlot_eq]

@[simp] theorem State.output_runLen (s : State) (i q : Byte) : (s.output i q).runLen = s.runLen := by
  simp only [State.output, State.emit_runLen]; rw [State.writeSlot_eq]

@[simp] theorem State.output_declaredLen (s : State) (i q : Byte) : (s.output i q).declaredLen = s.declaredLen := by
  simp only [State.output, State.emit_declaredLen]; rw [State.writeSlot_eq]

@[simp] theorem State.output_hostWritten (s : State) (i q : Byte) : (s.output i q).hostWritten = s.hostWritten := by
  simp only [State.output, State.emit_hostWritten]; rw [State.writeSlot_eq]

@[simp] theorem State.output_configurationPort (s : State) (i q : Byte) :
    (s.output i q).configurationPort = s.configurationPort := by
  simp only [State.output, State.emit_configurationPort]; rw [State.writeSlot_eq]

@[simp] theorem State.output_samplePort (s : State) (i q : Byte) : (s.output i q).samplePort = s.samplePort := by
  simp only [State.output, State.emit_samplePort]; rw [State.writeSlot_eq]

@[simp] theorem State.output_hostActs (s : State) (i q : Byte) : (s.output i q).hostActs = s.hostActs := by
  simp only [State.output, State.emit_hostActs]; rw [State.writeSlot_eq]

@[simp] theorem State.output_turns (s : State) (i q : Byte) : (s.output i q).turns = s.turns := by
  simp only [State.output, State.emit_turns]; rw [State.writeSlot_eq]

@[simp] theorem State.output_draws (s : State) (i q : Byte) : (s.output i q).draws = s.draws := by
  simp only [State.output, State.emit_draws]; rw [State.writeSlot_eq]

@[simp] theorem State.output_events (s : State) (i q : Byte) : (s.output i q).events = s.events ++ [.sample i q] := by
  simp only [State.output, State.emit_events]; rw [State.writeSlot_eq]

@[simp] theorem State.output_out (s : State) (i q : Byte) : (s.output i q).out = (s.writeSlot i q).out := rfl

@[simp] theorem State.output_lone (s : State) (i q : Byte) : (s.output i q).lone = (s.writeSlot i q).lone := rfl

@[simp] theorem State.output_slots (s : State) (i q : Byte) : (s.output i q).slots = s.slots.tail := by
  simp only [State.output, State.emit_slots, State.writeSlot_slots]

/-- An EXECUTE changes only the sample port and its slots. -/
theorem State.execute_eq (s : State) (n : Nat) :
    s.execute n = { s with samplePort := (s.execute n).samplePort, slots := (s.execute n).slots } := by
  unfold State.execute; split_ifs <;> rfl

@[simp] theorem State.execute_samplePort (s : State) (n : Nat) :
    (s.execute n).samplePort = s.samplePort ++ List.replicate n sampleHeader := by
  unfold State.execute; split_ifs with h <;> simp [h]

@[simp] theorem State.execute_turns (s : State) (n : Nat) : (s.execute n).turns = s.turns := by rw [State.execute_eq]

@[simp] theorem State.portSlots_length (s : State) : s.portSlots.length = s.samplePort.length := by
  simp [State.portSlots]

theorem State.execute_slots {s : State} {n : Nat} (h : n ≠ 0) :
    (s.execute n).slots = s.portSlots ++ (List.range n).map some := by
  simp [State.execute, h]

/-! ### HOST steps (20_memory R68) -/

/-- A HOST step changes only the bit source with its declared length and marks, the ports with the slots, and the pending
steps. -/
theorem State.hostStep_eq (s : State) :
    s.hostStep =
      { s with
        bitSource := s.hostStep.bitSource
        declaredLen := s.hostStep.declaredLen
        hostWritten := s.hostStep.hostWritten
        configurationPort := s.hostStep.configurationPort
        samplePort := s.hostStep.samplePort
        hostActs := s.hostStep.hostActs
        slots := s.hostStep.slots } := by
  unfold State.hostStep
  cases s.hostActs with
  | nil => rfl
  | cons act acts =>
    cases act with
    | execute n => dsimp only [State.hostAct]; rw [State.execute_eq]
    | _ => rfl

@[simp] theorem State.hostStep_regs (s : State) : s.hostStep.regs = s.regs := by rw [State.hostStep_eq]

@[simp] theorem State.hostStep_events (s : State) : s.hostStep.events = s.events := by rw [State.hostStep_eq]

@[simp] theorem State.hostStep_turns (s : State) : s.hostStep.turns = s.turns := by rw [State.hostStep_eq]

@[simp] theorem State.hostStep_runLen (s : State) : s.hostStep.runLen = s.runLen := by rw [State.hostStep_eq]

@[simp] theorem State.hostStep_draws (s : State) : s.hostStep.draws = s.draws := by rw [State.hostStep_eq]

/-- A HOST step takes no mark of a written byte away. -/
theorem State.hostWritten_hostStep {s : State} {a : Nat} (h : a ∈ s.hostWritten) : a ∈ s.hostStep.hostWritten := by
  unfold State.hostStep
  cases s.hostActs with
  | nil => exact h
  | cons act acts =>
    cases act with
    | writeByte x b => exact mem_insertAddr.2 (.inr h)
    | execute n => dsimp only [State.hostAct]; rw [State.execute_eq]; exact h
    | _ => exact h

/-! ### Ports -/

@[simp] theorem State.withPort_regs (s : State) (p : Port) (ws : List Word) : (s.withPort p ws).regs = s.regs := by
  cases p <;> rfl

@[simp] theorem State.withPort_events (s : State) (p : Port) (ws : List Word) : (s.withPort p ws).events = s.events := by
  cases p <;> rfl

@[simp] theorem State.withPort_port (s : State) (p : Port) (ws : List Word) : (s.withPort p ws).port p = ws := by
  cases p <;> rfl

/-! ### The next step -/

/-- Everything a turn can lead to. -/
theorem State.nextAction_cases (s : State) :
    (s.turns = [] ∧ s.nextAction = .quiet s) ∨
    (∃ ts, s.turns = .rst :: ts ∧ s.nextAction = .quiet { s with turns := ts }.resetStep) ∨
    (∃ ts, s.turns = .host :: ts ∧ s.nextAction = .quiet { s with turns := ts }.hostStep) ∨
    (∃ ts p, s.turns = portAgent p :: ts ∧ s.nextAction = { s with turns := ts }.fetch p) := by
  unfold State.nextAction
  cases h : s.turns with
  | nil => simp
  | cons a ts =>
    cases a with
    | rst => exact .inr (.inl ⟨ts, rfl, rfl⟩)
    | host => exact .inr (.inr (.inl ⟨ts, rfl, rfl⟩))
    | cfg => exact .inr (.inr (.inr ⟨ts, .configuration, rfl, rfl⟩))
    | syn => exact .inr (.inr (.inr ⟨ts, .sample, rfl, rfl⟩))

theorem State.fetch_empty {s : State} {p : Port} (h : s.port p = []) : s.fetch p = .quiet s := by
  simp [State.fetch, h]

/-- Everything a turn of SYN or CFG can lead to: nothing waits, a command runs, or its frame is refused. -/
theorem State.fetch_cases (s : State) (p : Port) :
    (s.port p = [] ∧ s.fetch p = .quiet s) ∨
    (∃ i rest, decode p (s.port p) = .ok (i, rest) ∧ s.fetch p = .run i (s.withPort p rest)) ∨
    (∃ e, s.port p ≠ [] ∧ decode p (s.port p) = .error e ∧ s.fetch p = .refuse e) := by
  cases hp : s.port p with
  | nil => exact .inl ⟨rfl, State.fetch_empty hp⟩
  | cons h ws =>
    cases hd : decode p (h :: ws) with
    | ok r =>
      obtain ⟨i, rest⟩ := r
      exact .inr (.inl ⟨i, rest, rfl, by simp [State.fetch, hp, hd]⟩)
    | error e => exact .inr (.inr ⟨e, by simp, rfl, by simp [State.fetch, hp, hd]⟩)

theorem State.fetch_ok {s : State} {p : Port} {i : Instr} {rest : List Word} (h : decode p (s.port p) = .ok (i, rest)) :
    s.fetch p = .run i (s.withPort p rest) := by
  cases hp : s.port p with
  | nil => rw [hp] at h; simp [decode] at h
  | cons hd ws => rw [hp] at h; simp [State.fetch, hp, h]

end Sys2Proof.Machine
end

