-- ==== Sys2Proof/Laws/Commands.lean ====
section
/-! SUPPORT. What a SAMPLE and a CONFIGURE can do, case by case, once. -/

namespace Sys2Proof.Machine

/-- A SAMPLE always answers a next state. -/
theorem exec_sample (s : State) : exec .sample s = .next (s.sample Config.params) := rfl

/-- A CONFIGURE always answers a next state. -/
theorem exec_configure (spb : Nat) (shift : Int) (len notice : Nat) (s : State) :
    exec (.configure spb shift len notice) s = .next (s.configure Config.params spb shift len notice) := rfl

/-- Idle: silence (40_synthesizer R101). -/
theorem State.sample_idle {s : State} (p : Params) (h : s.regs.cfg = false) : s.sample p = s.output 0 0 := by
  simp [State.sample, h]

/-- Active within a symbol (40_synthesizer R104, R114). -/
theorem State.sample_within {s : State} (p : Params) (h : s.regs.cfg = true) (hb : s.regs.sc ≠ s.regs.spb) :
    s.sample p = (s.withRegs s.regs.countedSample).ncoStage p := by
  simp [State.sample, State.boundaryStage, State.finishSample, Regs.atBoundary, h, hb]

/-- Completion (40_synthesizer R112, R113). -/
theorem State.sample_complete {s : State} (p : Params) (h : s.regs.cfg = true) (hb : s.regs.sc = s.regs.spb)
    (hc : s.regs.total < s.regs.bp) :
    s.sample p = (s.completeRun.withRegs s.completeRun.regs.restartedSymbol).output 0 0 := by
  simp [State.sample, State.boundaryStage, State.boundaryBranch, State.finishSample, State.completeRun, Regs.atBoundary,
    Regs.runComplete, h, hb, hc]

/-- The registers after a fetch (40_synthesizer R108 to R110), for the byte it read. -/
theorem State.fetchSymbol_regs (s : State) :
    s.fetchSymbol.regs =
      (let r := s.regs.fetched (bit8 (s.readBitSource (fetchAddr s.regs.bp)).1 (fetchBit s.regs.bp))
       if s.regs.reportDue then r.reported else r.countedFetch) := by
  have hr : (s.readBitSource (fetchAddr s.regs.bp)).2.regs = s.regs := by rw [State.readBitSource_state]
  have hd : ∀ bit, (s.regs.fetched bit).reportDue = s.regs.reportDue := fun _ => rfl
  simp only [State.fetchSymbol, State.progress, State.withRegs_regs, hr, hd]
  cases s.regs.reportDue <;> rfl

/-- A fetch changes only the registers, the events and the draw counter. -/
theorem State.fetchSymbol_eq (s : State) :
    s.fetchSymbol =
      { s with
        regs := s.fetchSymbol.regs
        events := s.events ++ (if s.regs.reportDue then [.report (s.regs.pacc + 1) false] else [])
        draws := if (s.definedByte (fetchAddr s.regs.bp)).isSome then s.draws else s.draws + 1 } := by
  have hd : ∀ bit, (s.regs.fetched bit).reportDue = s.regs.reportDue := fun _ => rfl
  cases hb : s.definedByte (fetchAddr s.regs.bp) <;> cases hr : s.regs.reportDue <;>
    simp [State.fetchSymbol, State.progress, State.readBitSource, hb, hd, hr, State.withRegs, State.emit]

/-- A boundary with a fetch (40_synthesizer R106). -/
theorem State.sample_fetch {s : State} (p : Params) (h : s.regs.cfg = true) (hb : s.regs.sc = s.regs.spb)
    (hc : ¬ s.regs.total < s.regs.bp) :
    s.sample p = (s.fetchSymbol.withRegs s.fetchSymbol.regs.restartedSymbol).ncoStage p := by
  have : s.fetchSymbol.regs.cfg = true := by rw [State.fetchSymbol_regs]; split_ifs <;> simp [h]
  simp [State.sample, State.boundaryStage, State.boundaryBranch, State.finishSample, Regs.atBoundary, Regs.runComplete, h, hb,
    hc, this]

/-- Everything a SAMPLE can do. -/
theorem State.sample_cases (p : Params) (s : State) :
    (s.regs.cfg = false ∧ s.sample p = s.output 0 0) ∨
    (s.regs.cfg = true ∧ s.regs.sc ≠ s.regs.spb ∧ s.sample p = (s.withRegs s.regs.countedSample).ncoStage p) ∨
    (s.regs.cfg = true ∧ s.regs.sc = s.regs.spb ∧ s.regs.total < s.regs.bp ∧
      s.sample p = (s.completeRun.withRegs s.completeRun.regs.restartedSymbol).output 0 0) ∨
    (s.regs.cfg = true ∧ s.regs.sc = s.regs.spb ∧ ¬ s.regs.total < s.regs.bp ∧
      s.sample p = (s.fetchSymbol.withRegs s.fetchSymbol.regs.restartedSymbol).ncoStage p) := by
  by_cases h : s.regs.cfg = true
  · by_cases hb : s.regs.sc = s.regs.spb
    · by_cases hc : s.regs.total < s.regs.bp
      · exact .inr (.inr (.inl ⟨h, hb, hc, State.sample_complete p h hb hc⟩))
      · exact .inr (.inr (.inr ⟨h, hb, hc, State.sample_fetch p h hb hc⟩))
    · exact .inr (.inl ⟨h, hb, State.sample_within p h hb⟩)
  · exact .inl ⟨by simpa using h, State.sample_idle p (by simpa using h)⟩

/-- The NCO stage changes only PHASE among the registers (40_synthesizer R116). -/
@[simp] theorem State.ncoStage_regs (p : Params) (s : State) : (s.ncoStage p).regs = s.regs.advanced := by
  simp [State.ncoStage]

@[simp] theorem State.ncoStage_events (p : Params) (s : State) :
    (s.ncoStage p).events =
      s.events ++ [.sample (inPhase p s.regs.advanced.phase) (quadrature p s.regs.advanced.phase)] := by
  simp [State.ncoStage]

@[simp] theorem State.ncoStage_draws (p : Params) (s : State) : (s.ncoStage p).draws = s.draws := by simp [State.ncoStage]

/-- The checks in order (60_exceptions R162). -/
theorem configureError_eq_none {p : Params} {spb : Nat} {shift : Int} {len : Nat} :
    configureError p spb shift len = none ↔
      spb ≠ 0 ∧ len ≤ 2 ^ 32 - 6 ∧ -2 ^ 31 ≤ increment p shift ∧ increment p shift ≤ 2 ^ 31 - 1 := by
  unfold configureError
  split_ifs with h1 h2 h3
  · simp [h1]
  · simp only [false_iff]; omega
  · simp only [false_iff]; omega
  · simp only [true_iff]; omega

/-- Everything a CONFIGURE can do: reject, or load and reply. -/
theorem State.configure_cases (p : Params) (spb : Nat) (shift : Int) (len notice : Nat) (s : State) :
    (∃ r, configureError p spb shift len = some r ∧ s.configure p spb shift len notice = s.raise r) ∨
    (configureError p spb shift len = none ∧
      s.configure p spb shift len notice = (s.startRun.withRegs (s.regs.loaded p spb shift len notice)).replyOk) := by
  unfold State.configure
  cases configureError p spb shift len with
  | none => exact .inr ⟨rfl, rfl⟩
  | some r => exact .inl ⟨r, rfl, rfl⟩

end Sys2Proof.Machine
end

