-- ==== Sys2Proof/Laws/Decode.lean ====
section
/-! SUPPORT. Small lemmas of the decoder: the sign helpers, the header's two fields, and words as bytes. -/

namespace Sys2Proof

theorem u32_natCast (n : Nat) : u32 (n : Int) = BitVec.ofNat 32 n := by simp [u32]

theorem u32_s32 (w : Word) : u32 (s32 w) = w := by simp [u32, s32]

theorem u32_neg (v : Int) : u32 (-v) = -u32 v := by simp [u32, BitVec.ofInt_neg]

theorem s32_u32 {v : Int} (h1 : -2 ^ 31 ≤ v) (h2 : v ≤ 2 ^ 31 - 1) : s32 (u32 v) = v := by
  unfold s32 u32
  rw [BitVec.toInt_ofInt]
  simp [Int.bmod]
  omega

/-- A header with `RSV = 0` is its opcode. -/
theorem header_of_fields {h : Word} {k : Byte} (h1 : headerRsv h = 0#24) (h2 : headerOpc h = k) : h = k.setWidth 32 := by
  unfold headerRsv at h1
  unfold headerOpc at h2
  apply BitVec.eq_of_toNat_eq
  have e1 := congrArg BitVec.toNat h1
  have e2 := congrArg BitVec.toNat h2
  simp [BitVec.extractLsb'_toNat, Nat.shiftRight_eq_div_pow] at e1 e2 ⊢
  have := h.isLt
  have := k.isLt
  omega

/-- A word is the four bytes it is carried as. -/
theorem word_of_bytes (w : Word) :
    (w.extractLsb' 24 8 ++ w.extractLsb' 16 8 ++ w.extractLsb' 8 8 ++ w.extractLsb' 0 8 : BitVec (8 + 8 + 8 + 8)) = w := by
  apply BitVec.eq_of_getElem_eq
  intro i hi
  rw [← BitVec.getLsbD_eq_getElem, ← BitVec.getLsbD_eq_getElem]
  simp only [BitVec.getLsbD_append, BitVec.getLsbD_extractLsb']
  split_ifs with h1 h2 h3
  · simp [h1]
  · rw [show decide (i - 8 < 8) = true by simpa using h2, Bool.true_and]; congr 1; omega
  · have : i - 8 - 8 < 8 := by omega
    simp [this]; congr 1; omega
  · have : i - 8 - 8 - 8 < 8 := by omega
    simp [this]; congr 1; omega

end Sys2Proof
end

