-- ==== Sys2Proof/Laws/Operands.lean ====
section
/-! SUPPORT. The operand forms in the other words the rules give for them. -/

namespace Sys2Proof.Machine

/-- `BP[31:3]` is the position divided by 8 (40_synthesizer R107). -/
theorem fetchAddr_eq (bp : Word) : fetchAddr bp = bp.toNat / 8 := by
  simp [fetchAddr, Nat.shiftRight_eq_div_pow]
  omega

/-- `BP[2:0]` is the position modulo 8 (40_synthesizer R108). -/
theorem fetchBit_eq (bp : Word) : fetchBit bp = bp.toNat % 8 := by
  simp [fetchBit]

/-- `BIT8(b, k) = b[7 - k]` (40_synthesizer R108). -/
theorem bit8_eq_getLsbD (b : Byte) {k : Nat} (h : k < 8) : bit8 b k = b.getLsbD (7 - k) := by
  have h7 : decide (7 ≥ k) = true := by simp only [decide_eq_true_eq]; omega
  rw [bit8, show (0x80 : Nat) = 2 ^ 7 by norm_num, Nat.and_two_pow, Nat.testBit_shiftLeft, h7, Bool.true_and, BitVec.getLsbD]
  cases b.toNat.testBit (7 - k) <;> simp

/-- The in-phase table index (40_synthesizer R117). -/
theorem tableIndex_eq (phase : Word) : tableIndex phase = BitVec.ofNat 8 (phase.toNat / 2 ^ 24) := by
  apply BitVec.eq_of_toNat_eq
  rw [tableIndex, BitVec.extractLsb'_toNat, BitVec.toNat_ofNat, Nat.shiftRight_eq_div_pow]

/-- The quadrature table index is 64 further on (40_synthesizer R118). -/
theorem tableIndex_quarterTurn (phase : Word) : tableIndex (phase + quarterTurn) = tableIndex phase + 64#8 := by
  have h : (phase + 0x40000000#32).extractLsb' 24 8 = phase.extractLsb' 24 8 + 64#8 := by
    have := phase.isLt
    apply BitVec.eq_of_toNat_eq
    rw [BitVec.extractLsb'_toNat, BitVec.toNat_add, BitVec.toNat_add, BitVec.toNat_ofNat, BitVec.toNat_ofNat,
      BitVec.extractLsb'_toNat, Nat.shiftRight_eq_div_pow, Nat.shiftRight_eq_div_pow]
    omega
  exact h

end Sys2Proof.Machine
end

