-- ==== Sys2Proof/Laws/PerInstr.lean ====
section
/-! SUPPORT. Laws stated per instruction: the frame of every command has the length its opcode fixes and a header word with
the reserved bits 0 (30_encoding R71, R72). -/

namespace Sys2Proof.Laws.FrameWords

/-- The frame is as long as its opcode fixes, and its header's reserved bits are 0. -/
def Statement (i : Instr) : Prop :=
  (encode i).length = i.frameLength ∧ ∃ h, (encode i).head? = some h ∧ headerRsv h = 0#24

theorem configure (spb : Nat) (shift : Int) (len notice : Nat) : Statement (.configure spb shift len notice) :=
  ⟨rfl, configureHeader, rfl, by decide⟩

theorem sample : Statement .sample := ⟨rfl, sampleHeader, rfl, by decide⟩

end Sys2Proof.Laws.FrameWords
end

