-- ==== Sys2Proof/Laws/Step.lean ====
section
/-! SUPPORT. What a step can do, once. -/

namespace Sys2Proof.Machine

/-- A command decodes only on its own port (30_encoding R76). -/
theorem port_of_decode {p : Port} {ws rest : List Word} {i : Instr} (h : decode p ws = .ok (i, rest)) : p = i.port := by
  unfold decode at h
  split at h
  · cases h
  · split_ifs at h <;> cases p <;> simp only [decodePayload, reduceCtorEq, Except.ok.injEq, Prod.mk.injEq] at h
    · split at h
      · cases h; rfl
      · cases h
    · obtain ⟨rfl, _⟩ := h; rfl

/-- Everything a step that answers a next state can be: nothing, a reset, a HOST step, a turn with no word waiting, or a
decoded command. -/
theorem step_cases {s t : State} (h : step s = .next t) :
    (s.turns = [] ∧ t = s) ∨
    (∃ ts, s.turns = .rst :: ts ∧ t = { s with turns := ts }.resetStep) ∨
    (∃ ts, s.turns = .host :: ts ∧ t = { s with turns := ts }.hostStep) ∨
    (∃ ts p, s.turns = portAgent p :: ts ∧ s.port p = [] ∧ t = { s with turns := ts }) ∨
    (∃ ts p i rest, s.turns = portAgent p :: ts ∧ decode p (s.port p) = .ok (i, rest) ∧
      exec i ({ s with turns := ts }.withPort p rest) = .next t) := by
  have hp : ∀ ts p, ({ s with turns := ts } : State).port p = s.port p := fun ts p => by cases p <;> rfl
  unfold step at h
  rcases s.nextAction_cases with ⟨ht, ha⟩ | ⟨ts, ht, ha⟩ | ⟨ts, ht, ha⟩ | ⟨ts, p, ht, ha⟩
  · simp only [ha, Host.Outcome.next.injEq] at h; exact .inl ⟨ht, h.symm⟩
  · simp only [ha, Host.Outcome.next.injEq] at h; exact .inr (.inl ⟨ts, ht, h.symm⟩)
  · simp only [ha, Host.Outcome.next.injEq] at h; exact .inr (.inr (.inl ⟨ts, ht, h.symm⟩))
  · rcases State.fetch_cases { s with turns := ts } p with ⟨hw, hf⟩ | ⟨i, rest, hd, hf⟩ | ⟨e, _, _, hf⟩
    · simp only [ha, hf, Host.Outcome.next.injEq] at h
      exact .inr (.inr (.inr (.inl ⟨ts, p, ht, hp ts p ▸ hw, h.symm⟩)))
    · simp only [ha, hf] at h
      exact .inr (.inr (.inr (.inr ⟨ts, p, i, rest, ht, hp ts p ▸ hd, h⟩)))
    · simp [ha, hf] at h

/-- What a step that answers a next state did to the block: nothing, a reset, a SAMPLE from the sample port or a CONFIGURE from
the configuration port. -/
theorem step_commands {s t : State} (h : step s = .next t) :
    (t.regs = s.regs ∧ t.events = s.events ∧ t.runLen = s.runLen ∧ ∀ a, a ∈ s.hostWritten → a ∈ t.hostWritten) ∨
    (∃ ts, s.turns = .rst :: ts ∧ t = { s with turns := ts }.resetStep) ∨
    (∃ ts rest, s.turns = .syn :: ts ∧ decode .sample s.samplePort = .ok (.sample, rest) ∧
      t = ({ s with turns := ts, samplePort := rest } : State).sample Config.params) ∨
    (∃ ts spb shift len notice rest, s.turns = .cfg :: ts ∧
      decode .configuration s.configurationPort = .ok (.configure spb shift len notice, rest) ∧
      t = ({ s with turns := ts, configurationPort := rest } : State).configure Config.params spb shift len notice) := by
  rcases step_cases h with ⟨_, rfl⟩ | ⟨ts, ht, rfl⟩ | ⟨ts, _, rfl⟩ | ⟨ts, p, _, _, rfl⟩ | ⟨ts, p, i, rest, ht, hd, he⟩
  · exact .inl ⟨rfl, rfl, rfl, fun _ h => h⟩
  · exact .inr (.inl ⟨ts, ht, rfl⟩)
  · exact .inl ⟨State.hostStep_regs _, State.hostStep_events _, State.hostStep_runLen _, fun _ h => State.hostWritten_hostStep h⟩
  · exact .inl ⟨rfl, rfl, rfl, fun _ h => h⟩
  · obtain rfl := port_of_decode hd
    cases i with
    | sample =>
      rw [exec_sample, Host.Outcome.next.injEq] at he
      exact .inr (.inr (.inl ⟨ts, rest, ht, hd, he.symm⟩))
    | configure spb shift len notice =>
      rw [exec_configure, Host.Outcome.next.injEq] at he
      exact .inr (.inr (.inr ⟨ts, spb, shift, len, notice, rest, ht, hd, he.symm⟩))

end Sys2Proof.Machine
end

