-- ==== Sys2Proof/Tests/Slice0.lean ====
section
/-! SUPPORT. The model's own tests: expected results are the vectors of 95_test_vectors.md, worked out there from the rules.
After them, one witness for the hypotheses of every statement of Certificates/Slice0/Obligations.lean. -/

namespace Sys2Proof.Tests

open Sys2Proof.Machine

/-! ### Well-formedness: an ill-formed term for each check -/

theorem test_wf_limits : (Instr.configure (2 ^ 32 - 1) (-2 ^ 31) (2 ^ 32 - 1) (2 ^ 32 - 1)).wf = true := by decide

theorem test_wf_refuses_spb : (Instr.configure (2 ^ 32) 0 0 0).wf = false := by decide

theorem test_wf_refuses_shift_high : (Instr.configure 1 (2 ^ 31) 0 0).wf = false := by decide

theorem test_wf_refuses_shift_low : (Instr.configure 1 (-2 ^ 31 - 1) 0 0).wf = false := by decide

theorem test_wf_refuses_len : (Instr.configure 1 0 (2 ^ 32) 0).wf = false := by decide

theorem test_wf_refuses_notice : (Instr.configure 1 0 0 (2 ^ 32)).wf = false := by decide

/-! ### Decoding: section 2.2 of the vectors, word by word -/

/-- V30-01. -/
theorem test_decode_configure :
    decode .configuration [0x00000001#32, 0x00000004#32, 0x000003E8#32, 0x00000008#32, 0x00000002#32]
      = .ok (.configure 4 1000 8 2, []) := by decide

/-- V30-02: `w2` is signed. -/
theorem test_decode_negative_shift :
    decode .configuration [0x00000001#32, 0x00000001#32, 0xFFFFFFF8#32, 0x00000000#32, 0x00000003#32]
      = .ok (.configure 1 (-8) 0 3, []) := by decide

/-- V30-03. -/
theorem test_decode_sample : decode .sample [0x00000002#32] = .ok (.sample, []) := by decide

/-- V30-04 and V30-05. -/
theorem test_decode_reserved_opcode :
    decode .sample [0x00000003#32] = .error (.reservedOpcode 0x00000003#32) ∧
      decode .sample [0x00000000#32] = .error (.reservedOpcode 0x00000000#32) := by decide

/-- V30-06. -/
theorem test_decode_reserved_bits : decode .sample [0x00000102#32] = .error (.reservedBits 0x00000102#32) := by decide

/-- V30-07 and V30-08. -/
theorem test_decode_wrong_port :
    decode .sample [0x00000001#32, 1#32, 1#32, 1#32, 1#32] = .error (.wrongPort 0x00000001#32) ∧
      decode .configuration [0x00000002#32] = .error (.wrongPort 0x00000002#32) := by decide

/-- V30-09. -/
theorem test_decode_truncated :
    decode .configuration [0x00000001#32, 0x00000004#32, 0x000003E8#32] = .error (.truncated 0x00000001#32) := by decide

/-- V30-10: `spb = 0` is not a decode error. -/
theorem test_decode_spb_zero :
    decode .configuration [0x00000001#32, 0x00000000#32, 0x00000001#32, 0x00000001#32, 0x00000001#32]
      = .ok (.configure 0 1 1 1, []) := by decide

/-- The frame of V30-01 as bytes, least significant first (20_memory R59). -/
theorem test_bytes : bytesOfWord 0x000003E8#32 = [0xE8#8, 0x03#8, 0x00#8, 0x00#8] ∧
    wordsOfBytes [0xE8#8, 0x03#8, 0x00#8, 0x00#8, 0x02#8] = [0x000003E8#32] := by decide

/-- The rows of the opcode table, operand words of zeros; a reserved opcode gives none. -/
theorem test_table_words : decodeTableWord 32 1 = some (.configure 0 0 0 0) ∧ decodeTableWord 32 2 = some .sample ∧
    decodeTableWord 32 3 = none := by decide

/-- Each row runs as the first command after reset. -/
theorem test_fetch_configure : step (State.reset.withFetchWord 32 1) = exec (.configure 0 0 0 0) State.reset := rfl

theorem test_fetch_sample : step (State.reset.withFetchWord 32 2) = exec .sample State.reset := rfl

/-! ### The text form -/

/-- The first line of program P2's second run. -/
theorem test_parse_configure :
    parseLine "CONFIGURE 1, -8, 0, 3      ; comment".toList = .ok (.command (.configure 1 (-8) 0 3)) := by decide

/-- A literal outside its field is an error, and so is a line that is no command (30_encoding R82). -/
theorem test_parse_errors : parseLine "CONFIGURE 0x100000000, 0, 0, 0".toList = .error .outOfRange ∧
    parseLine "SAMPLE 1".toList = .error .badSyntax := by decide

/-! ### The two commands -/

/-- A table in which every entry is its index, so that a sample shows the indices it was read from. -/
def indexTable (fs : Nat) : Params := .ofRate fs (fun i => i)

/-- The common start of the synthesis vectors: `SPB = 4`, `TOTAL = 12`, `K = 4294`, `BS = [0x55, 0x0F]`. -/
def demo (phase bp sc : Word) (cs : Bool) (pcnt pacc : Word) : State :=
  { State.reset with
    regs := { spb := 4, total := 12, inc0 := 0x00418570, inc1 := 0xFFBE7A90, notice := 2, phase := phase, bp := bp, sc := sc,
              cs := cs, cfg := true, pcnt := pcnt, pacc := pacc }
    bitSource := [(0, 0x55), (1, 0x0F)]
    runLen := 2 }

/-- V40-05: the last fetch of a progress interval. -/
theorem test_sample_fetch :
    ((demo 0 8 4 true 2 1).sample (indexTable 1000000)).events = [.report 2 false, .sample 0 64] ∧
      ((demo 0 8 4 true 2 1).sample (indexTable 1000000)).regs = (demo 0x00418570 9 0 false 0 2).regs := by decide

/-- V40-07: completion. -/
theorem test_sample_completes :
    ((demo 0x03D6D190 13 4 true 1 4).sample (indexTable 1000000)).events = [.report 4 true, .sample 0 0] ∧
      ((demo 0x03D6D190 13 4 true 1 4).sample (indexTable 1000000)).regs =
        { (demo 0x03D6D190 13 0 false 1 4).regs with cfg := false } := by decide

/-- An EXECUTE behind a lone SAMPLE frame: its own frames keep their own slots (30_encoding R84). -/
theorem test_execute_slots :
    ({ demo 0 8 4 true 2 1 with samplePort := [0x00000002#32] }.execute 2).slots = [none, some 0, some 1] := by decide

/-- V41-01: `K = 4294`, accepted. -/
theorem test_configure_loads :
    (State.configure (indexTable 1000000) 4 1000 8 2 (demo 7 3 2 true 1 1)).regs = (demo 7 0 4 false 0 0).regs := by decide

/-- V41-14: `K = 2^24`; two checks fail and the lower reason is the reply. -/
theorem test_configure_rejects :
    (State.configure (indexTable 256) 1 128 4294967295 0 (demo 7 3 2 true 1 1)).events
      = [.status (.invalidConfig .streamTooLong)] := by decide

/-! ### Witnesses: states and operands that meet the hypotheses of each statement, each clause at an edge of its range -/

/-- `demo` with one agent's turn to come. -/
def demoTurn (a : Agent) : State := { demo 0 8 4 true 2 1 with turns := [a] }

/-- `demo` with a frame on each port, and the given turns. -/
def demoPorts (ts : List Agent) : State :=
  { demo 0 8 4 true 2 1 with
    turns := ts
    configurationPort := [0x00000001#32, 0x00000001#32, 0x00000000#32, 0xFFFFFFFA#32, 0xFFFFFFFF#32, 0x00000001#32]
    samplePort := [0x00000002#32, 0x00000002#32] }

theorem witness_DecodeOfEncode : (Instr.configure 0 (-2 ^ 31) (2 ^ 32 - 1) 0).wf = true ∧
    (Instr.configure (2 ^ 32 - 1) (2 ^ 31 - 1) 0 (2 ^ 32 - 1)).wf = true ∧ Instr.sample.wf = true := by decide

theorem witness_DecodeOnlyOwnFrame :
    decode .configuration [0x00000001#32, 0#32, 0x80000000#32, 0xFFFFFFFF#32, 0#32, 0x00000002#32]
      = .ok (.configure 0 (-2 ^ 31) (2 ^ 32 - 1) 0, [0x00000002#32]) ∧
    decode .sample [0x00000002#32, 0x00000003#32] = .ok (.sample, [0x00000003#32]) := by decide

theorem witness_BytesCarryWords : (0 : Nat) < [0x000003E8#32].length ∧ 3 < 4 := by decide

theorem witness_StepRunsDecodedFrame_configure :
    (demoPorts [.cfg]).turns = portAgent .configuration :: [] ∧
      decode .configuration ((demoPorts [.cfg]).port .configuration)
        = .ok (.configure 1 0 4294967290 4294967295, [0x00000001#32]) := by decide

theorem witness_StepRunsDecodedFrame_sample :
    (demoPorts [.syn]).turns = portAgent .sample :: [] ∧
      decode .sample ((demoPorts [.syn]).port .sample) = .ok (.sample, [0x00000002#32]) := by decide

/-- A port that ends inside a CONFIGURE, on `demo`. -/
def demoTruncated : State := { demoTurn .cfg with configurationPort := [0x00000001#32, 1#32, 1#32, 1#32] }

theorem witness_IllegalFrameRefused :
    demoTruncated.turns = portAgent .configuration :: [] ∧ demoTruncated.port .configuration ≠ [] ∧
      decode .configuration (demoTruncated.port .configuration) = .error (.truncated 0x00000001#32) := by decide

theorem witness_RefusalMarkKept : Sys2Proof.core.run 0 demoTruncated = .next demoTruncated ∧
    demoTruncated.turns = portAgent .configuration :: [] ∧ demoTruncated.port .configuration ≠ [] ∧
    decode .configuration (demoTruncated.port .configuration) = .error (.truncated 0x00000001#32) :=
  ⟨rfl, witness_IllegalFrameRefused⟩

theorem witness_BothOrdersAdmitted :
    decode .configuration (demoPorts []).configurationPort = .ok (.configure 1 0 4294967290 4294967295, [0x00000001#32]) ∧
      decode .sample (demoPorts []).samplePort = .ok (.sample, [0x00000002#32]) := by decide

theorem witness_BothOrdersAdmitted_reset :
    decode .configuration ((demoPorts []).port .configuration) = .ok (.configure 1 0 4294967290 4294967295, [0x00000001#32]) ∧
      decode .sample ((demoPorts []).port .sample) = .ok (.sample, [0x00000002#32]) := by decide

theorem witness_NoCommandNoChange_noTurn : (demo 0 8 4 true 2 1).turns = [] := rfl

theorem witness_NoCommandNoChange_noWord :
    ((demoTurn .cfg).turns = portAgent .configuration :: [] ∧ (demoTurn .cfg).port .configuration = []) ∧
      ((demoTurn .syn).turns = portAgent .sample :: [] ∧ (demoTurn .syn).port .sample = []) := by decide

theorem witness_HostStepsLeaveBlock : (demoTurn .host).turns = .host :: [] := rfl

theorem witness_ResetStepResults : (demoTurn .rst).turns = .rst :: [] := rfl

/-- The invariants hold in an active state whose counters are in their ranges. -/
theorem demo_inv (phase : Word) {bp sc : Word} (cs : Bool) {pcnt pacc : Word} (hbp : bp.toNat ≤ 13) (hsc : sc ≤ 4) (hpcnt : pcnt ≤ 2)
    (hpacc : pacc ≤ bp) : (demo phase bp sc cs pcnt pacc).regs.Inv where
  counter := hsc
  symbolLength := fun _ => show 1 ≤ (4#32).toNat by decide
  totalLow := fun _ => show 4 ≤ (12#32).toNat by decide
  totalHigh := fun _ => show (12#32).toNat ≤ 2 ^ 32 - 2 by decide
  position := fun _ => hbp
  progress := hpcnt
  increments := show 0xFFBE7A90#32 = u32 (-s32 0x00418570#32) by decide
  reports := hpacc

theorem witness_InvariantsKeptByStep : (demoPorts [.syn]).regs.Inv ∧ ∃ t, step (demoPorts [.syn]) = .next t :=
  ⟨demo_inv 0 true (by decide) (by decide) (by decide) (by decide), _, rfl⟩

theorem witness_CountersNeverWrap_within : (demo 0 13 3 true 2 13).regs.Inv ∧ (demo 0 13 3 true 2 13).regs.cfg = true ∧
    (demo 0 13 3 true 2 13).regs.sc ≠ (demo 0 13 3 true 2 13).regs.spb :=
  ⟨demo_inv 0 true (by decide) (by decide) (by decide) (by decide), by decide, by decide⟩

theorem witness_CountersNeverWrap_completes : (demo 0 13 4 true 2 4).regs.Inv ∧ (demo 0 13 4 true 2 4).regs.cfg = true ∧
    (demo 0 13 4 true 2 4).regs.sc = (demo 0 13 4 true 2 4).regs.spb ∧
    (demo 0 13 4 true 2 4).regs.bp.toNat > (demo 0 13 4 true 2 4).regs.total.toNat :=
  ⟨demo_inv 0 true (by decide) (by decide) (by decide) (by decide), by decide, by decide, by decide⟩

theorem witness_CountersNeverWrap_counts : (demo 0 12 4 true 1 4).regs.Inv ∧ (demo 0 12 4 true 1 4).regs.cfg = true ∧
    (demo 0 12 4 true 1 4).regs.sc = (demo 0 12 4 true 1 4).regs.spb ∧
    (demo 0 12 4 true 1 4).regs.bp.toNat ≤ (demo 0 12 4 true 1 4).regs.total.toNat ∧
    (demo 0 12 4 true 1 4).regs.pcnt.toNat < (demo 0 12 4 true 1 4).regs.notice.toNat :=
  ⟨demo_inv 0 true (by decide) (by decide) (by decide) (by decide), by decide, by decide, by decide, by decide⟩

theorem witness_CountersNeverWrap_reports : (demo 0 12 4 true 2 4).regs.Inv ∧ (demo 0 12 4 true 2 4).regs.cfg = true ∧
    (demo 0 12 4 true 2 4).regs.sc = (demo 0 12 4 true 2 4).regs.spb ∧
    (demo 0 12 4 true 2 4).regs.bp.toNat ≤ (demo 0 12 4 true 2 4).regs.total.toNat ∧
    (demo 0 12 4 true 2 4).regs.notice.toNat ≤ (demo 0 12 4 true 2 4).regs.pcnt.toNat :=
  ⟨demo_inv 0 true (by decide) (by decide) (by decide) (by decide), by decide, by decide, by decide, by decide⟩

/-- The registers after reset have the invariants and are Idle. -/
theorem witness_CountersNeverWrap_idle : ({ State.reset with regs := Regs.initial 7 } : State).regs.Inv ∧
    ({ State.reset with regs := Regs.initial 7 } : State).regs.cfg = false :=
  ⟨by constructor <;> decide, rfl⟩

theorem witness_CanonicalKeptByStep : (demoPorts [.syn]).wf ∧ ∃ t, step (demoPorts [.syn]) = .next t :=
  ⟨by unfold State.wf; decide, _, rfl⟩

/-- Shift 0 is accepted whatever `PHASE_SCALE` is; the two other operands are at both ends of what is accepted. -/
theorem accepted_edges : AcceptedOperands 1 0 0 ∧ AcceptedOperands (2 ^ 32 - 1) 0 (2 ^ 32 - 6) := by
  simp [AcceptedOperands]

theorem witness_ConfigureAccepted : AcceptedOperands 1 0 0 ∧ AcceptedOperands (2 ^ 32 - 1) 0 (2 ^ 32 - 6) := accepted_edges

theorem configure_ok (s : State) {spb : Nat} {shift : Int} {len : Nat} (notice : Nat) (h : AcceptedOperands spb shift len) :
    ∃ t, exec (.configure spb shift len notice) s = .next t ∧ t.events = s.events ++ [.status .ok] := by
  refine ⟨_, exec_configure spb shift len notice s, ?_⟩
  rw [State.configure, (configureError_eq_none (p := Config.params)).2 h]
  rfl

theorem witness_AcceptedRegisters : (Instr.configure (2 ^ 32 - 1) 0 (2 ^ 32 - 6) (2 ^ 32 - 1)).wf = true ∧
    ∃ t, exec (.configure (2 ^ 32 - 1) 0 (2 ^ 32 - 6) (2 ^ 32 - 1)) (demo 0 8 4 true 2 1) = .next t ∧
      t.events = (demo 0 8 4 true 2 1).events ++ [.status .ok] :=
  ⟨by decide, configure_ok _ _ accepted_edges.2⟩

theorem witness_ConfigureRejections_1 : (0 : Nat) = 0 := rfl

theorem witness_ConfigureRejections_2 : (1 : Nat) ≠ 0 ∧ 4294967291 > 2 ^ 32 - 6 := by decide

theorem witness_ConfigureRejections_3 : (1 : Nat) ≠ 0 ∧ 4294967290 ≤ 2 ^ 32 - 6 ∧
    ((-129 : Int) * ((indexTable 256).phaseScale : Int) < -2 ^ 31 ∧
      (128 : Int) * ((indexTable 256).phaseScale : Int) > 2 ^ 31 - 1) := by decide

theorem witness_RejectedWritesNothing :
    ∃ t, exec (.configure 0 1 1 1) (demo 0 8 4 true 2 1) = .next t ∧
      t.events = (demo 0 8 4 true 2 1).events ++ [.status (.invalidConfig .samplesPerBitZero)] := ⟨_, rfl, rfl⟩

theorem witness_AcceptedShiftRange : 0 < (indexTable 1000000).phaseScale ∧ (1 : Nat) ≠ 0 ∧ 4294967290 ≤ 2 ^ 32 - 6 := by
  decide

theorem witness_ConfigureTakesEffectAtOnce :
    (Instr.configure 1 0 0 0).wf = true ∧ AcceptedOperands 1 0 0 ∧
      (Instr.configure (2 ^ 32 - 1) 0 (2 ^ 32 - 6) 1).wf = true ∧ AcceptedOperands (2 ^ 32 - 1) 0 (2 ^ 32 - 6) :=
  ⟨by decide, accepted_edges.1, by decide, accepted_edges.2⟩

theorem witness_IdleRegistersUnobservable :
    (Regs.initial 7).cfg = false ∧ ({ Regs.initial 7 with spb := 4, bp := 3, cs := true } : Regs).cfg = false ∧
      (Regs.initial 7).phase = ({ Regs.initial 7 with spb := 4, bp := 3, cs := true } : Regs).phase := by decide

/-- V40-02: an Idle state. -/
def demoIdle : State := { State.reset with regs := { Regs.initial 0x12345678 with sc := 4, bp := 3 } }

theorem witness_SampleIdle : demoIdle.regs.cfg = false := rfl

theorem witness_SampleCounter_boundary : (demo 0 8 4 true 2 1).regs.cfg = true ∧
    (demo 0 8 4 true 2 1).regs.sc = (demo 0 8 4 true 2 1).regs.spb := by decide

theorem witness_SampleCounter_within : (demo 0 8 3 true 2 1).regs.cfg = true ∧
    (demo 0 8 3 true 2 1).regs.sc ≠ (demo 0 8 3 true 2 1).regs.spb := by decide

theorem witness_CompletionTest_fetch : (demo 0 12 4 true 2 1).regs.cfg = true ∧
    (demo 0 12 4 true 2 1).regs.sc = (demo 0 12 4 true 2 1).regs.spb ∧
    (demo 0 12 4 true 2 1).regs.bp.toNat ≤ (demo 0 12 4 true 2 1).regs.total.toNat := by decide

theorem witness_CompletionTest_complete : (demo 0 13 4 true 2 1).regs.cfg = true ∧
    (demo 0 13 4 true 2 1).regs.sc = (demo 0 13 4 true 2 1).regs.spb ∧
    (demo 0 13 4 true 2 1).regs.bp.toNat > (demo 0 13 4 true 2 1).regs.total.toNat := by decide

theorem witness_PhaseAdvance_active : (demo 0xFFFFFFFF 8 3 true 2 1).regs.cfg = true ∧
    ∃ t, exec .sample (demo 0xFFFFFFFF 8 3 true 2 1) = .next t ∧ t.regs.cfg = true := ⟨rfl, _, rfl, rfl⟩

theorem witness_PhaseAdvance_completes : (demo 0 13 4 true 2 1).regs.cfg = true ∧
    ∃ t, exec .sample (demo 0 13 4 true 2 1) = .next t ∧ t.regs.cfg = false := ⟨rfl, _, rfl, rfl⟩

theorem witness_QuadratureLookup : (demo 0xFFFFFFFF 12 4 true 2 1).regs.cfg = true ∧
    ¬((demo 0xFFFFFFFF 12 4 true 2 1).regs.sc = (demo 0xFFFFFFFF 12 4 true 2 1).regs.spb ∧
      (demo 0xFFFFFFFF 12 4 true 2 1).regs.bp.toNat > (demo 0xFFFFFFFF 12 4 true 2 1).regs.total.toNat) := by decide

theorem witness_SampleWithinSymbol : (demo 0 8 0 true 2 1).regs.cfg = true ∧
    (demo 0 8 0 true 2 1).regs.sc ≠ (demo 0 8 0 true 2 1).regs.spb := by decide

theorem witness_SampleFetch : (demo 0 12 4 true 2 1).regs.cfg = true ∧
    (demo 0 12 4 true 2 1).regs.sc = (demo 0 12 4 true 2 1).regs.spb ∧
    (demo 0 12 4 true 2 1).regs.bp.toNat ≤ (demo 0 12 4 true 2 1).regs.total.toNat := by decide

theorem witness_SampleCompletes : (demo 0 13 4 true 2 1).regs.cfg = true ∧
    (demo 0 13 4 true 2 1).regs.sc = (demo 0 13 4 true 2 1).regs.spb ∧
    (demo 0 13 4 true 2 1).regs.bp.toNat > (demo 0 13 4 true 2 1).regs.total.toNat := by decide

/-- `demo` with the given slots for the SAMPLEs to come. -/
def demoSlots (slots : List (Option Nat)) : State := { demo 0 8 3 true 2 1 with slots := slots, out := [(0, 1), (1, 2)] }

theorem witness_SampleFillsItsSlot_execute :
    (demoSlots [some 0, some 1]).slots.head? = some (some 0) ∧ (2 : Nat) ≠ 2 * 0 ∧ (2 : Nat) ≠ 2 * 0 + 1 ∧
      (demoSlots [some 1]).slots.head? = some (some 1) ∧ (0 : Nat) ≠ 2 * 1 ∧ (0 : Nat) ≠ 2 * 1 + 1 := by decide

theorem witness_SampleFillsItsSlot_lone :
    (demoSlots []).slots.head? = none ∧ (demoSlots [none, some 0]).slots.head? = some none ∧ 2 ≤ 2 := by decide

theorem witness_BitSourceRead_defined : 1 < (demo 0 8 4 true 2 1).runLen ∧ 1 ∉ (demo 0 8 4 true 2 1).hostWritten ∧
    (demo 0 8 4 true 2 1).bitSource.read 1 = some 0x0F := by decide

theorem witness_BitSourceRead_beyond : 2 ≥ (demo 0 8 4 true 2 1).runLen := by decide

theorem witness_BitSourceRead_written : 1 ∈ ({ demo 0 8 4 true 2 1 with hostWritten := [1] } : State).hostWritten := by decide

theorem witness_HostWriteDuringRun :
    ({ demoTurn .host with hostActs := [.writeByte 1 0xAA] } : State).turns = .host :: [] ∧
      ({ demoTurn .host with hostActs := [.writeByte 1 0xAA] } : State).hostActs = .writeByte 1 0xAA :: [] ∧ (0 : Nat) ≠ 1 := by
  decide

theorem witness_WrittenMarkStays :
    1 ∈ ({ demoTurn .syn with hostWritten := [1], samplePort := [0x00000002#32] } : State).hostWritten ∧
      ∃ t, step ({ demoTurn .syn with hostWritten := [1], samplePort := [0x00000002#32] } : State) = .next t :=
  ⟨by decide, _, rfl⟩

theorem witness_DeclaredLengthForNextRun :
    ({ demoTurn .host with hostActs := [.declareLength 0] } : State).turns = .host :: [] ∧
      ({ demoTurn .host with hostActs := [.declareLength 0] } : State).hostActs = .declareLength 0 :: [] ∧
      AcceptedOperands 1 0 0 := ⟨rfl, rfl, accepted_edges.1⟩

theorem witness_WritesBeforeRunAreSeen :
    (∃ t, exec (.configure 1 0 0 0) { demo 0 8 4 true 2 1 with declaredLen := 1, hostWritten := [0, 1] } = .next t ∧
      t.events = [] ++ [.status .ok]) ∧
    ({ demo 0 8 4 true 2 1 with declaredLen := 1, hostWritten := [0, 1] } : State).bitSource.read 0 = some 0x55 :=
  ⟨configure_ok _ _ accepted_edges.1, by decide⟩

theorem witness_SymbolDuration : (demo 0 8 0 true 2 1).regs.cfg = true ∧ (demo 0 8 0 true 2 1).regs.sc = 0 ∧
    4 ≤ (demo 0 8 0 true 2 1).regs.spb.toNat := by decide

theorem witness_RunLength : (Instr.configure 1 0 0 0).wf = true ∧ AcceptedOperands 1 0 0 ∧ 10 ≤ (0 + 5) * (1 + 1) :=
  ⟨by decide, accepted_edges.1, by decide⟩

theorem witness_ReportsOfRun_during : (Instr.configure 1 0 0 1).wf = true ∧ AcceptedOperands 1 0 0 ∧ 10 ≤ (0 + 5) * (1 + 1) :=
  ⟨by decide, accepted_edges.1, by decide⟩

theorem witness_ReportsOfRun_after : (Instr.configure 1 0 0 1).wf = true ∧ AcceptedOperands 1 0 0 ∧ 11 > (0 + 5) * (1 + 1) :=
  ⟨by decide, accepted_edges.1, by decide⟩

theorem witness_PhaseOfRun : (Instr.configure 1 0 11 0).wf = true ∧ AcceptedOperands 1 0 11 ∧
    (11 + 4) / 8 < ({ demo 0 8 4 true 2 1 with declaredLen := 2 } : State).declaredLen :=
  ⟨by decide, by simp [AcceptedOperands], by decide⟩

theorem witness_SilenceUntilConfigured_idle : demoIdle.regs.cfg = false := rfl

theorem witness_SilenceUntilConfigured_completes : (demo 0 13 4 true 2 1).regs.cfg = true ∧
    (demo 0 13 4 true 2 1).regs.sc = (demo 0 13 4 true 2 1).regs.spb ∧
    (demo 0 13 4 true 2 1).regs.bp.toNat > (demo 0 13 4 true 2 1).regs.total.toNat := by decide

/-- An Idle state with one agent's turn to come, and a CONFIGURE and a SAMPLE pending. -/
def demoIdleTurn (a : Agent) (w1 : Word) : State :=
  { demoIdle with turns := [a], configurationPort := [0x00000001#32, w1, 0#32, 0#32, 0#32], samplePort := [0x00000002#32] }

theorem witness_SilenceUntilConfigured_steps :
    (∀ a, (demoIdleTurn a 0).regs.cfg = false ∧ ∃ t, step (demoIdleTurn a 0) = .next t) ∧
      (demoIdleTurn .cfg 1).regs.cfg = false ∧ ∃ t, step (demoIdleTurn .cfg 1) = .next t :=
  ⟨fun a => by cases a <;> exact ⟨rfl, _, rfl⟩, rfl, _, rfl⟩

theorem witness_FramesRunInOrder :
    (demoPorts [.syn, .syn, .rst]).samplePort = List.replicate 2 0x00000002#32 ++ [] ∧
      (demoPorts [.syn, .syn, .rst]).turns = List.replicate 2 .syn ++ [.rst] := by decide

theorem witness_ChunkingInvisible : (demo 0 8 4 true 2 1).turns = [] ∧ (demo 0 8 4 true 2 1).samplePort = [] := by decide

theorem witness_ExecuteFillsBuffer :
    ({ demoTurn .syn with samplePort := [0x00000002#32] } : State).turns = List.replicate 1 .syn ∧
      ({ demoTurn .syn with samplePort := [0x00000002#32] } : State).samplePort = List.replicate 1 0x00000002#32 ∧ 0 < 2 := by
  decide

theorem witness_IdleActiveMachine_reset :
    (demoTurn .rst).turns = .rst :: [] ∧ ∃ t, step (demoTurn .rst) = .next t ∧ (demoTurn .rst).regs.cfg = true ∧ t.regs.cfg = false :=
  ⟨rfl, _, rfl, rfl, rfl⟩

/-- A completing SAMPLE waiting, on `demo`. -/
def demoComplete : State := { demo 0 13 4 true 1 4 with turns := [.syn], samplePort := [0x00000002#32] }

theorem witness_IdleActiveMachine_completes :
    ∃ t, step demoComplete = .next t ∧ demoComplete.regs.cfg = true ∧ t.regs.cfg = false := ⟨_, rfl, rfl, rfl⟩

theorem witness_IdleActiveMachine_enters :
    ∃ t, step (demoIdleTurn .cfg 1) = .next t ∧ (demoIdleTurn .cfg 1).regs.cfg = false ∧ t.regs.cfg = true := by
  have h : configureError Config.params (1#32).toNat (s32 0#32) (0#32).toNat = none :=
    configureError_eq_none.2 accepted_edges.1
  refine ⟨_, rfl, rfl, ?_⟩
  change (State.configure Config.params (1#32).toNat (s32 0#32) (0#32).toNat (0#32).toNat _).regs.cfg = true
  rw [State.configure, h]
  rfl

/-- A CONFIGURE with `spb = 0` waiting, on `demo`. -/
def demoReject : State := { demoTurn .cfg with configurationPort := [0x00000001#32, 0#32, 1#32, 1#32, 1#32] }

theorem witness_ErrorOnlyFromConfigure :
    ∃ t, step demoReject = .next t ∧ t.events = demoReject.events ++ [.status (.invalidConfig .samplesPerBitZero)] :=
  ⟨_, rfl, rfl⟩

theorem witness_ConfigurationWriters :
    (∃ t, step demoReject = .next t) ∧ (∃ t, step (demoTurn .rst) = .next t) ∧ ∃ t, step (demoPorts [.syn]) = .next t :=
  ⟨⟨_, rfl⟩, ⟨_, rfl⟩, _, rfl⟩

theorem witness_IssuedCommandRuns : Instr.sample.wf = true ∧ (Instr.configure 0 (-2 ^ 31) (2 ^ 32 - 1) 0).wf = true ∧
    (demo 0 8 4 true 2 1).turns = [] ∧ ∀ p, (demo 0 8 4 true 2 1).port p = [] :=
  ⟨by decide, by decide, rfl, fun p => by cases p <;> rfl⟩

theorem witness_HostSendsFrames_message :
    ({ demoTurn .host with hostActs := [.message 0 0x80000000 0 0] } : State).turns = .host :: [] ∧
      ({ demoTurn .host with hostActs := [.message 0 0x80000000 0 0] } : State).hostActs = .message 0 0x80000000 0 0 :: [] ∧
      ({ demoTurn .host with hostActs := [.message 0 0x80000000 0 0] } : State).configurationPort = [] := by decide

theorem witness_HostSendsFrames_execute :
    (∀ n, ({ demoTurn .host with hostActs := [.execute n] } : State).turns = .host :: [] ∧
      ({ demoTurn .host with hostActs := [.execute n] } : State).hostActs = .execute n :: []) ∧ 2 < 3 :=
  ⟨fun _ => ⟨rfl, rfl⟩, by decide⟩

theorem witness_TextLiteralsInRange :
    parseLine "CONFIGURE 4294967295, -2147483648, 0xFFFFFFFF, 0".toList
      = .ok (.command (.configure (2 ^ 32 - 1) (-2 ^ 31) (2 ^ 32 - 1) 0)) := by decide

theorem witness_ToneTruncation : 1 ≤ 1000000 ∧ configureError (indexTable 1000000) 1 500112 4294967290 = none ∧
    configureError (indexTable 1) 1 0 0 = none ∧ configureError (indexTable (2 ^ 33)) 1 (-2147483648) 0 = none := by decide

end Sys2Proof.Tests
end

section
/-! The order of the bits in the host's stream (20_memory R54). -/

namespace Sys2Proof.Machine

/-- `BIT8(b, k)` with the shift as a product: what is shifted out of the 8 bits stays above bit 7
(40_synthesizer R108). -/
theorem bit8_eq_true_iff (b : Byte) (k : Nat) : bit8 b k = true ↔ b.toNat * 2 ^ k &&& 0x80 ≠ 0 := by
  rw [bit8, decide_eq_true_iff, Nat.shiftLeft_eq]

/-- A stream position's bit number stays inside the byte. -/
theorem fetchBit_lt (bp : Word) : fetchBit bp < 8 := by
  rw [fetchBit_eq]
  exact Nat.mod_lt _ (by decide)

/-- Settles O32: the position splits into byte index and bit number, and `BIT8` at a bit number below 8 reads the byte from
its most significant bit down. -/
theorem streamBitOrder : Obligations.StreamBitOrder := by
  intro i b
  have hbit : bit8 b (fetchBit i) = b.getLsbD (7 - fetchBit i) := bit8_eq_getLsbD b (fetchBit_lt i)
  have hshift : bit8 b (fetchBit i) = true ↔ b.toNat * 2 ^ fetchBit i &&& 0x80 ≠ 0 := bit8_eq_true_iff b (fetchBit i)
  rw [fetchBit_eq] at hbit hshift ⊢
  exact ⟨fetchAddr_eq i, hbit, hshift⟩

end Sys2Proof.Machine
end

section
/-! What an active SAMPLE leaves in the registers, for each of its three outcomes, and the counter and completion test that
follow (40_synthesizer R103 to R113). -/

namespace Sys2Proof.Machine

/-! ### What a fetch leaves -/

/-- A fetch writes CS, BP, PCNT and PACC only (40_synthesizer R108 to R110); CS and BP are those of `Regs.fetched`. -/
theorem State.fetchSymbol_regs_cases (s : State) :
    ∃ bit, s.fetchSymbol.regs = (s.regs.fetched bit).reported ∨ s.fetchSymbol.regs = (s.regs.fetched bit).countedFetch := by
  refine ⟨bit8 (s.readBitSource (fetchAddr s.regs.bp)).1 (fetchBit s.regs.bp), ?_⟩
  rw [State.fetchSymbol_regs]
  dsimp only
  split_ifs
  · exact .inl rfl
  · exact .inr rfl

@[simp] theorem State.fetchSymbol_bp (s : State) : s.fetchSymbol.regs.bp = s.regs.bp + 1 := by
  obtain ⟨bit, h | h⟩ := s.fetchSymbol_regs_cases <;> simp [h]

@[simp] theorem State.fetchSymbol_cfg (s : State) : s.fetchSymbol.regs.cfg = s.regs.cfg := by
  obtain ⟨bit, h | h⟩ := s.fetchSymbol_regs_cases <;> simp [h]

@[simp] theorem State.fetchSymbol_phase (s : State) : s.fetchSymbol.regs.phase = s.regs.phase := by
  obtain ⟨bit, h | h⟩ := s.fetchSymbol_regs_cases <;> simp [h]

@[simp] theorem State.fetchSymbol_inc0 (s : State) : s.fetchSymbol.regs.inc0 = s.regs.inc0 := by
  obtain ⟨bit, h | h⟩ := s.fetchSymbol_regs_cases <;> simp [h]

@[simp] theorem State.fetchSymbol_inc1 (s : State) : s.fetchSymbol.regs.inc1 = s.regs.inc1 := by
  obtain ⟨bit, h | h⟩ := s.fetchSymbol_regs_cases <;> simp [h]

/-! ### What a completion leaves -/

@[simp] theorem State.completeRun_regs (s : State) : s.completeRun.regs = s.regs.completed := rfl

@[simp] theorem State.completeRun_events (s : State) :
    s.completeRun.events = s.events ++ [.report s.regs.pacc true] := rfl

/-! ### The registers of a SAMPLE, outcome by outcome -/

theorem State.sample_within_regs {s : State} (p : Params) (h : s.regs.cfg = true) (hb : s.regs.sc ≠ s.regs.spb) :
    (s.sample p).regs = s.regs.countedSample.advanced := by
  rw [State.sample_within p h hb, State.ncoStage_regs, State.withRegs_regs]

theorem State.sample_complete_regs {s : State} (p : Params) (h : s.regs.cfg = true) (hb : s.regs.sc = s.regs.spb)
    (hc : s.regs.total < s.regs.bp) : (s.sample p).regs = s.regs.completed.restartedSymbol := by
  rw [State.sample_complete p h hb hc, State.output_regs, State.withRegs_regs, State.completeRun_regs]

theorem State.sample_complete_events {s : State} (p : Params) (h : s.regs.cfg = true) (hb : s.regs.sc = s.regs.spb)
    (hc : s.regs.total < s.regs.bp) :
    (s.sample p).events = s.events ++ [.report s.regs.pacc true] ++ [.sample 0 0] := by
  rw [State.sample_complete p h hb hc, State.output_events, State.withRegs_events, State.completeRun_events]

theorem State.sample_fetch_regs {s : State} (p : Params) (h : s.regs.cfg = true) (hb : s.regs.sc = s.regs.spb)
    (hc : ¬ s.regs.total < s.regs.bp) : (s.sample p).regs = s.fetchSymbol.regs.restartedSymbol.advanced := by
  rw [State.sample_fetch p h hb hc, State.ncoStage_regs, State.withRegs_regs]

/-! ### Counter and completion test -/

/-- Settles O28: at a boundary both outcomes, completion and fetch, restart the counter; elsewhere only the counter and PHASE
move. -/
theorem sampleCounter : Obligations.SampleCounter := by
  intro s h
  refine ⟨_, exec_sample s, fun hb => ?_, fun hb => ?_⟩
  · by_cases hc : s.regs.total < s.regs.bp
    · rw [State.sample_complete_regs _ h hb hc]
      exact ⟨rfl, .inr rfl⟩
    · rw [State.sample_fetch_regs _ h hb hc]
      exact ⟨rfl, .inl s.fetchSymbol_bp⟩
  · rw [State.sample_within_regs _ h hb]
    exact ⟨rfl, rfl, h, rfl⟩

/-- Settles O29: completion clears CFG and is taken exactly when `TOTAL < BP`; otherwise the fetch keeps CFG and advances
BP. -/
theorem completionTest : Obligations.CompletionTest := by
  intro s h hb
  refine ⟨_, exec_sample s, ?_⟩
  by_cases hc : s.regs.total < s.regs.bp
  · have hlt : s.regs.total.toNat < s.regs.bp.toNat := hc
    rw [State.sample_complete_regs _ h hb hc]
    exact ⟨iff_of_true rfl hlt, fun hle => absurd hle (Nat.not_le.2 hlt)⟩
  · have hge : ¬ s.regs.total.toNat < s.regs.bp.toNat := hc
    rw [State.sample_fetch_regs _ h hb hc]
    exact ⟨iff_of_false (by simp [h]) hge, fun _ => s.fetchSymbol_bp⟩

end Sys2Proof.Machine
end

section
/-! The numerically controlled oscillator: phase advance and quadrature lookup of an active SAMPLE that does not complete
(40_synthesizer R114 to R118). -/

namespace Sys2Proof.Machine

/-- An active SAMPLE that does not complete, within a symbol or with a fetch, ends in the NCO stage of a state that is still
Active and has PHASE and the two increments as they were (40_synthesizer R114). -/
theorem State.sample_eq_ncoStage {s : State} (p : Params) (h : s.regs.cfg = true)
    (hn : ¬ (s.regs.sc = s.regs.spb ∧ s.regs.total < s.regs.bp)) :
    ∃ u : State, s.sample p = u.ncoStage p ∧ u.regs.cfg = true ∧ u.regs.phase = s.regs.phase ∧
      u.regs.inc0 = s.regs.inc0 ∧ u.regs.inc1 = s.regs.inc1 := by
  by_cases hb : s.regs.sc = s.regs.spb
  · have hc : ¬ s.regs.total < s.regs.bp := fun hc => hn ⟨hb, hc⟩
    exact ⟨_, State.sample_fetch p h hb hc, by simp [h]⟩
  · exact ⟨_, State.sample_within p h hb, by simp [h]⟩

/-- The sample of the NCO stage is the table's at the phase the stage leaves (40_synthesizer R117, R118). -/
theorem State.ncoStage_emits_sampleOfPhase (u : State) :
    (u.ncoStage Config.params).events = u.events ++ [sampleOfPhase (u.ncoStage Config.params).regs.phase] := by
  rw [State.ncoStage_events, State.ncoStage_regs]
  rfl

/-- Adding a word is adding its two's complement value modulo 2^32 (40_synthesizer R116). -/
theorem add_eq_ofInt_signed (x inc : Word) : x + inc = BitVec.ofInt 32 ((x.toNat : Int) + inc.toInt) := by
  rw [BitVec.ofInt_add, BitVec.ofInt_natCast, BitVec.ofNat_toNat, BitVec.setWidth_eq, BitVec.ofInt_toInt]

/-- The quarter turn leaves the low 24 bits of the phase (40_synthesizer R118). -/
theorem add_quarterTurn_low (phase : Word) : (phase + quarterTurn).toNat % 2 ^ 24 = phase.toNat % 2 ^ 24 := by
  have hq : quarterTurn.toNat = 2 ^ 30 := rfl
  rw [BitVec.toNat_add, hq]
  omega

/-- Settles O30: the advance is the one of the NCO stage, by the tone of the symbol the step leaves; a completing step leaves
PHASE. -/
theorem phaseAdvance : Obligations.PhaseAdvance := by
  intro s h
  refine ⟨_, _, exec_sample s, rfl, ?_⟩
  by_cases hn : s.regs.sc = s.regs.spb ∧ s.regs.total < s.regs.bp
  · obtain ⟨hb, hc⟩ := hn
    rw [State.sample_complete_regs _ h hb hc]
    exact ⟨fun _ => rfl, fun hcfg => absurd hcfg (by simp)⟩
  · obtain ⟨u, hu, hcfg, hphase, hinc0, hinc1⟩ := State.sample_eq_ncoStage Config.params h hn
    have hregs : (s.sample Config.params).regs = u.regs.advanced := by rw [hu, State.ncoStage_regs]
    have htone : u.regs.tone = if u.regs.advanced.cs then s.regs.inc1 else s.regs.inc0 := by
      rw [Regs.tone, hinc0, hinc1, Regs.advanced_cs]
    have hadd : u.regs.advanced.phase = s.regs.phase + if u.regs.advanced.cs then s.regs.inc1 else s.regs.inc0 := by
      rw [Regs.advanced_phase, hphase, htone]
    rw [hregs]
    refine ⟨fun hidle => absurd hidle (by simp [hcfg]), fun _ => ⟨?_, ?_, u.events, ?_⟩⟩
    · rw [hadd, BitVec.toNat_add]
    · rw [hadd, add_eq_ofInt_signed]
    · rw [hu, State.ncoStage_emits_sampleOfPhase, State.ncoStage_regs]

/-- Settles O31: the sample is the one of the NCO stage; its two indices are the phase's top byte and that byte 64 further
on. -/
theorem quadratureLookup : Obligations.QuadratureLookup := by
  intro s h hn
  obtain ⟨u, hu, -⟩ := State.sample_eq_ncoStage Config.params h hn
  refine ⟨_, u.events, exec_sample s, ?_, tableIndex_eq _, ?_, add_quarterTurn_low _⟩
  · rw [hu]
    exact u.ncoStage_emits_sampleOfPhase
  · have hindex := tableIndex_quarterTurn (s.sample Config.params).regs.phase
    rw [tableIndex_eq (s.sample Config.params).regs.phase, ← BitVec.ofNat_add] at hindex
    exact hindex

end Sys2Proof.Machine
end

section
/-! Silence in Idle (40_synthesizer R101, R113). -/

namespace Sys2Proof.Machine

/-- A SAMPLE's output leaves the words waiting on both ports. -/
@[simp] theorem State.output_port (s : State) (i q : Byte) (p : Port) : (s.output i q).port p = s.port p := by
  cases p with
  | configuration => exact s.output_configurationPort i q
  | sample => exact s.output_samplePort i q

/-- Settles O27: an Idle SAMPLE is the output of the zero sample and nothing else. -/
theorem sampleIdle : Obligations.SampleIdle := by
  intro s h
  refine ⟨_, exec_sample s, ?_⟩
  rw [State.sample_idle _ h]
  exact ⟨s.output_regs 0 0, s.output_events 0 0, s.output_draws 0 0, fun a => by rw [State.output_bitSource],
    s.output_port 0 0⟩

/-- `n + 1` SAMPLEs are one and then `n` more, since a SAMPLE always answers a next state. -/
theorem execTimes_sample_succ (n : Nat) (s : State) :
    execTimes .sample (n + 1) s = execTimes .sample n (s.sample Config.params) := rfl

/-- Any number of SAMPLEs in Idle: only zero samples, no register, no draw (40_synthesizer R101). -/
theorem execTimes_sample_idle (n : Nat) {s : State} (h : s.regs.cfg = false) :
    ∃ t, execTimes .sample n s = .next t ∧ t.regs = s.regs ∧ t.events = s.events ++ List.replicate n (.sample 0 0) ∧
      t.draws = s.draws := by
  induction n generalizing s with
  | zero => exact ⟨s, rfl, rfl, by simp, rfl⟩
  | succ n ih =>
    have hidle : (s.output 0 0).regs.cfg = false := by rw [State.output_regs, h]
    obtain ⟨t, ht, hregs, hevents, hdraws⟩ := ih hidle
    refine ⟨t, ?_, by rw [hregs, State.output_regs], ?_, by rw [hdraws, State.output_draws]⟩
    · rw [execTimes_sample_succ, State.sample_idle _ h, ht]
    · rw [hevents, State.output_events, List.append_assoc, List.replicate_succ, List.singleton_append]

/-- A completing SAMPLE and any number of SAMPLEs after it: its report, zero samples, and the registers the completion left
(40_synthesizer R112, R113). -/
theorem execTimes_sample_complete (n : Nat) {s : State} (h : s.regs.cfg = true) (hb : s.regs.sc = s.regs.spb)
    (hc : s.regs.total < s.regs.bp) :
    ∃ t, execTimes .sample (n + 1) s = .next t ∧ t.regs = s.regs.completed.restartedSymbol ∧
      t.events = s.events ++ [.report s.regs.pacc true] ++ List.replicate (n + 1) (.sample 0 0) := by
  have hfirst : (s.sample Config.params).regs = s.regs.completed.restartedSymbol := State.sample_complete_regs _ h hb hc
  have hidle : (s.sample Config.params).regs.cfg = false := by rw [hfirst]; rfl
  obtain ⟨t, ht, hregs, hevents, -⟩ := execTimes_sample_idle n hidle
  refine ⟨t, by rw [execTimes_sample_succ, ht], by rw [hregs, hfirst], ?_⟩
  rw [hevents, State.sample_complete_events _ h hb hc, List.append_assoc, List.replicate_succ, List.singleton_append]

/-- One step of any agent from Idle: silence, or an accepted CONFIGURE (40_synthesizer R113). -/
theorem step_idle {s t : State} (h : s.regs.cfg = false) (hstep : step s = .next t) :
    (t.regs.cfg = false ∧ (t.regs = s.regs ∨ ∃ ts, s.turns = .rst :: ts) ∧
      (t.events = s.events ∨ t.events = s.events ++ [.sample 0 0] ∨
        ∃ r, t.events = s.events ++ [.status (.invalidConfig r)])) ∨
    (∃ ts spb shift len notice rest, s.turns = .cfg :: ts ∧
      decode .configuration s.configurationPort = .ok (.configure spb shift len notice, rest) ∧
      t.regs.cfg = true ∧ t.events = s.events ++ [.status .ok]) := by
  rcases step_commands hstep with ⟨hregs, hevents, -⟩ | ⟨ts, hts, rfl⟩ | ⟨ts, rest, -, -, rfl⟩ |
    ⟨ts, spb, shift, len, notice, rest, hts, hdecode, rfl⟩
  · exact .inl ⟨by rw [hregs, h], .inl hregs, .inl hevents⟩
  · exact .inl ⟨rfl, .inr ⟨ts, hts⟩, .inl rfl⟩
  · rw [State.sample_idle Config.params (s := { s with turns := ts, samplePort := rest }) h]
    refine .inl ⟨?_, .inl ?_, .inr (.inl ?_)⟩
    · rw [State.output_regs, h]
    · rw [State.output_regs]
    · rw [State.output_events]
  · rcases State.configure_cases Config.params spb shift len notice { s with turns := ts, configurationPort := rest } with
      ⟨r, -, hc⟩ | ⟨-, hc⟩
    · rw [hc]
      exact .inl ⟨h, .inl rfl, .inr (.inr ⟨r, rfl⟩)⟩
    · rw [hc]
      exact .inr ⟨ts, spb, shift, len, notice, rest, hts, hdecode, rfl, rfl⟩

/-- Settles O46: SAMPLEs in Idle by induction on their number, the completing SAMPLE before them, and the steps of all agents
from Idle. -/
theorem silenceUntilConfigured : Obligations.SilenceUntilConfigured := by
  refine ⟨fun s n h => execTimes_sample_idle n h, fun s n h hb hc => ?_, fun s t h hstep => step_idle h hstep⟩
  obtain ⟨t, ht, hregs, hevents⟩ := execTimes_sample_complete n h hb hc
  exact ⟨t, s.regs.pacc, ht, by rw [hregs]; rfl, by rw [hregs]; rfl, hevents⟩

end Sys2Proof.Machine
end

section
/-! What a CONFIGURE leaves, read off its reply (41_configure R140 to R150). -/

namespace Sys2Proof.Machine

/-! ### Operands in range -/

/-- A well-formed CONFIGURE has every unsigned operand in the range of its payload word (30_encoding R73, R82). -/
theorem unsigned_operands_of_wf {spb : Nat} {shift : Int} {len notice : Nat}
    (h : (Instr.configure spb shift len notice).wf = true) : spb < 2 ^ 32 ∧ len < 2 ^ 32 ∧ notice < 2 ^ 32 := by
  simp only [Instr.wf, fitsU32, Bool.and_eq_true, decide_eq_true_eq] at h
  obtain ⟨⟨⟨hspb, -⟩, hlen⟩, hnotice⟩ := h
  exact ⟨hspb, hlen, hnotice⟩

/-- A natural number below `2^32` is its word's value (00_scope R10). -/
theorem toNat_u32_natCast {n : Nat} (h : n < 2 ^ 32) : (u32 (n : Int)).toNat = n := by
  rw [u32_natCast, BitVec.toNat_ofNat, Nat.mod_eq_of_lt h]

/-! ### The reply tells the outcome -/

/-- A reply `OK` comes only from the branch that loads (41_configure R150). -/
theorem State.configure_eq_of_ok {p : Params} {s : State} {spb : Nat} {shift : Int} {len notice : Nat}
    (h : (s.configure p spb shift len notice).events = s.events ++ [.status .ok]) :
    configureError p spb shift len = none ∧
      s.configure p spb shift len notice = (s.startRun.withRegs (s.regs.loaded p spb shift len notice)).replyOk := by
  rcases State.configure_cases p spb shift len notice s with ⟨r, -, hreject⟩ | haccept
  · rw [hreject] at h
    simp at h
  · exact haccept

/-- A reply `InvalidConfig` comes only from the branch that changes nothing else (41_configure R142). -/
theorem State.configure_eq_of_invalidConfig {p : Params} {s : State} {spb : Nat} {shift : Int} {len notice : Nat}
    {r : Reason} (h : (s.configure p spb shift len notice).events = s.events ++ [.status (.invalidConfig r)]) :
    s.configure p spb shift len notice = s.raise r := by
  rcases State.configure_cases p spb shift len notice s with ⟨r', -, hreject⟩ | ⟨-, haccept⟩
  · rw [hreject] at h ⊢
    have hr : r' = r := by simpa using h
    rw [hr]
  · rw [haccept] at h
    simp at h

/-! ### The values loaded -/

/-- The loaded registers hold the operands' values, TOTAL the stream length and the trailer with no wrap, and INC0 the exact
product, when the checks pass and the unsigned operands fit their words (41_configure R140, R145, R147). -/
theorem Regs.loaded_values {p : Params} {spb : Nat} {shift : Int} {len notice : Nat} (r : Regs) (hspb : spb < 2 ^ 32)
    (hnotice : notice < 2 ^ 32) (h : configureError p spb shift len = none) :
    (r.loaded p spb shift len notice).spb.toNat = spb ∧ (r.loaded p spb shift len notice).total.toNat = len + 4 ∧
      (r.loaded p spb shift len notice).notice.toNat = notice ∧
      (r.loaded p spb shift len notice).inc0.toInt = increment p shift := by
  obtain ⟨-, hlen, hlow, hhigh⟩ := configureError_eq_none.1 h
  have hfit : len + 4 < 2 ^ 32 := by omega
  exact ⟨toNat_u32_natCast hspb, toNat_u32_natCast hfit, toNat_u32_natCast hnotice, s32_u32 hlow hhigh⟩

/-- INC1 is loaded as the two's-complement negation of INC0 (41_configure R146). -/
theorem Regs.loaded_inc1_eq_neg (p : Params) (spb : Nat) (shift : Int) (len notice : Nat) (r : Regs) :
    (r.loaded p spb shift len notice).inc1 = -(r.loaded p spb shift len notice).inc0 := by
  rw [Regs.loaded_inc1, Regs.loaded_inc0, u32_neg]

/-! ### The SAMPLE after the load -/

/-- An Active block with its counter at the symbol's end and BP at 0 fetches: TOTAL is not below 0 (41_configure R148,
40_synthesizer R105). -/
theorem State.sample_bp_of_start {s : State} (p : Params) (h : s.regs.cfg = true) (hb : s.regs.sc = s.regs.spb)
    (hbp : s.regs.bp = 0) : (s.sample p).regs.bp = 1 := by
  have hc : ¬ s.regs.total < s.regs.bp := by rw [hbp]; exact BitVec.not_lt_zero
  have hfetch : (s.sample p).regs.bp = s.regs.bp + 1 := by
    rw [State.sample_fetch_regs p h hb hc]
    exact s.fetchSymbol_bp
  rw [hfetch, hbp]
  rfl

/-! ### The obligations -/

/-- Settles O20: a reply `OK` means the registers are the loaded ones; their values, the negation, and the fetch are the
lemmas above. -/
theorem acceptedRegisters : Obligations.AcceptedRegisters := by
  intro s t spb shift len notice hwf hexec hok
  obtain rfl : s.configure Config.params spb shift len notice = t := Host.Outcome.next.inj hexec
  obtain ⟨hspb, -, hnotice⟩ := unsigned_operands_of_wf hwf
  obtain ⟨hnone, hload⟩ := State.configure_eq_of_ok hok
  have hregs : (s.configure Config.params spb shift len notice).regs =
      s.regs.loaded Config.params spb shift len notice := by rw [hload]; rfl
  obtain ⟨hspbValue, htotalValue, hnoticeValue, hinc0Value⟩ := Regs.loaded_values s.regs hspb hnotice hnone
  have hneg := Regs.loaded_inc1_eq_neg Config.params spb shift len notice s.regs
  have hfetch : ((s.configure Config.params spb shift len notice).sample Config.params).regs.bp = 1 :=
    State.sample_bp_of_start _ (by rw [hregs]; rfl) (by rw [hregs]; rfl) (by rw [hregs]; rfl)
  rw [hregs]
  exact ⟨hspbValue, htotalValue, hnoticeValue, rfl, hinc0Value, hneg, fun hmin => by rw [hneg, hmin]; rfl,
    fun hzero => by rw [hneg, hzero]; rfl, rfl, rfl, rfl, rfl, rfl, _, exec_sample _, hfetch⟩

/-- Settles O22: a reply `InvalidConfig` means the state is the old one with that reply. -/
theorem rejectedWritesNothing : Obligations.RejectedWritesNothing := by
  intro s t spb shift len notice r hexec hrejected
  obtain rfl : s.configure Config.params spb shift len notice = t := Host.Outcome.next.inj hexec
  rw [State.configure_eq_of_invalidConfig hrejected]
  exact ⟨rfl, rfl⟩

end Sys2Proof.Machine
end

section
/-! What a SAMPLE adds to the observation (40_synthesizer R100, 60_exceptions R163, R170). -/

namespace Sys2Proof.Machine

/-- A fetch reports progress when a report is due, and emits nothing else (40_synthesizer R110). -/
theorem State.fetchSymbol_events (s : State) :
    s.fetchSymbol.events = s.events ++ if s.regs.reportDue then [.report (s.regs.pacc + 1) false] else [] :=
  congrArg State.events s.fetchSymbol_eq

/-- What a SAMPLE emits, outcome by outcome: only a fetch and a completion report, and every outcome ends in the one sample
of the step (40_synthesizer R100). -/
theorem State.sample_events (p : Params) (s : State) :
    ∃ rs i q, (s.sample p).events = s.events ++ rs ++ [.sample i q] ∧
      (rs = [] ∨ ∃ progress done, rs = [.report progress done]) := by
  rcases s.sample_cases p with ⟨-, hidle⟩ | ⟨-, -, hwithin⟩ | ⟨h, hb, hc, -⟩ | ⟨-, -, -, hfetch⟩
  · exact ⟨[], 0, 0, by rw [hidle, State.output_events, List.append_nil], .inl rfl⟩
  · exact ⟨[], _, _, by rw [hwithin, State.ncoStage_events, State.withRegs_events, List.append_nil], .inl rfl⟩
  · exact ⟨_, 0, 0, State.sample_complete_events p h hb hc, .inr ⟨_, _, rfl⟩⟩
  · refine ⟨_, _, _, by rw [hfetch, State.ncoStage_events, State.withRegs_events, State.fetchSymbol_events], ?_⟩
    split_ifs
    · exact .inr ⟨_, _, rfl⟩
    · exact .inl rfl

/-- Settles O36: a SAMPLE always answers a next state, and its events are those of its outcome. -/
theorem sampleRaisesNothing : Obligations.SampleRaisesNothing := by
  intro s
  obtain ⟨rs, i, q, hevents, hreport⟩ := s.sample_events Config.params
  exact ⟨_, rs, i, q, exec_sample s, hevents, hreport⟩

end Sys2Proof.Machine
end

section
/-! Frames: the decoder is the encoder's inverse, and refuses everything else (30_encoding R70 to R79). -/

namespace Sys2Proof

open Machine (unsigned_operands_of_wf toNat_u32_natCast)

/-! ### Operands and payload words -/

/-- A well-formed CONFIGURE has its signed operand in the range of its payload word (30_encoding R73, R82). -/
theorem signed_operand_of_wf {spb : Nat} {shift : Int} {len notice : Nat}
    (h : (Instr.configure spb shift len notice).wf = true) : -2 ^ 31 ≤ shift ∧ shift ≤ 2 ^ 31 - 1 := by
  simp only [Instr.wf, fitsS32, Bool.and_eq_true, decide_eq_true_eq] at h
  obtain ⟨⟨⟨-, hshift⟩, -⟩, -⟩ := h
  exact hshift

/-- Four payload words are read as operands in range (30_encoding R73). -/
theorem wf_of_payload (w1 w2 w3 w4 : Word) : (Instr.configure w1.toNat (s32 w2) w3.toNat w4.toNat).wf = true := by
  have hlow : -2 ^ 31 ≤ s32 w2 := BitVec.le_toInt w2
  have hhigh : s32 w2 ≤ 2 ^ 31 - 1 := Int.le_sub_one_of_lt (BitVec.toInt_lt (x := w2))
  simp only [Instr.wf, fitsU32, fitsS32, Bool.and_eq_true, decide_eq_true_eq]
  exact ⟨⟨⟨w1.isLt, hlow, hhigh⟩, w3.isLt⟩, w4.isLt⟩

/-- The frame of the command that four payload words stand for is the header and those words (30_encoding R73). -/
theorem encode_payload (w1 w2 w3 w4 : Word) :
    encode (.configure w1.toNat (s32 w2) w3.toNat w4.toNat) = [configureHeader, w1, w2, w3, w4] := by
  simp [encode, u32_natCast, u32_s32]

/-! ### The two headers -/

theorem decode_configureHeader (ws : List Word) :
    decode .configuration (configureHeader :: ws) = decodePayload configureHeader ws := rfl

theorem decode_sampleHeader (ws : List Word) : decode .sample (sampleHeader :: ws) = .ok (.sample, ws) := rfl

/-- The payload of a CONFIGURE is read exactly when four words are there (30_encoding R77). -/
theorem decodePayload_error_iff (h : Word) (ws : List Word) :
    (∃ e, decodePayload h ws = .error e) ↔ ws.length < 4 := by
  match ws with
  | [] | [_] | [_, _] | [_, _, _] => simp [decodePayload]
  | w1 :: w2 :: w3 :: w4 :: rest => simp [decodePayload]

/-- What decodes is a SAMPLE's header on the sample port, or a CONFIGURE's header and four payload words on the
configuration port. -/
theorem decode_eq_ok {p : Port} {ws rest : List Word} {i : Instr} (h : decode p ws = .ok (i, rest)) :
    (p = .sample ∧ i = .sample ∧ ws = sampleHeader :: rest) ∨
    (p = .configuration ∧ ∃ w1 w2 w3 w4, i = .configure w1.toNat (s32 w2) w3.toNat w4.toNat ∧
      ws = configureHeader :: w1 :: w2 :: w3 :: w4 :: rest) := by
  cases ws with
  | nil => simp [decode] at h
  | cons hd tl =>
    simp only [decode] at h
    split_ifs at h with hrsv hconf hsamp <;> cases p <;> simp only [reduceCtorEq, Except.ok.injEq, Prod.mk.injEq] at h
    · obtain rfl : hd = configureHeader := header_of_fields (not_not.1 hrsv) hconf
      unfold decodePayload at h
      split at h
      · next w1 w2 w3 w4 rest' =>
        simp only [Except.ok.injEq, Prod.mk.injEq] at h
        obtain ⟨rfl, rfl⟩ := h
        exact .inr ⟨rfl, w1, w2, w3, w4, rfl, rfl⟩
      · cases h
    · obtain rfl : hd = sampleHeader := header_of_fields (not_not.1 hrsv) hsamp
      obtain ⟨rfl, rfl⟩ := h
      exact .inl ⟨rfl, rfl, rfl⟩

/-! ### The obligations on decoding -/

/-- Settles O1: each header selects its own arm of the decoder, and every operand in range is the value of its payload
word. -/
theorem decodeOfEncode : Obligations.DecodeOfEncode := by
  intro i rest hwf
  cases i with
  | configure spb shift len notice =>
    obtain ⟨hspb, hlen, hnotice⟩ := unsigned_operands_of_wf hwf
    obtain ⟨hlow, hhigh⟩ := signed_operand_of_wf hwf
    have hframe : encode (.configure spb shift len notice) ++ rest =
        configureHeader :: u32 spb :: u32 shift :: u32 len :: u32 notice :: rest := rfl
    rw [Instr.port, hframe, decode_configureHeader, decodePayload, toNat_u32_natCast hspb, s32_u32 hlow hhigh,
      toNat_u32_natCast hlen, toNat_u32_natCast hnotice]
  | sample => exact decode_sampleHeader rest

/-- Settles O2: the two inversions of the decoder, the payload words being in range and their own frame. -/
theorem decodeOnlyOwnFrame : Obligations.DecodeOnlyOwnFrame := by
  intro p ws rest i h
  rcases decode_eq_ok h with ⟨rfl, rfl, rfl⟩ | ⟨rfl, w1, w2, w3, w4, rfl, rfl⟩
  · exact ⟨rfl, rfl, rfl⟩
  · exact ⟨wf_of_payload w1 w2 w3 w4, rfl, by rw [encode_payload]; rfl⟩

/-- Settles O3: along the decoder's tests of the header, with the payload's length at the end of the one arm that reads
it. -/
theorem illegalFrameExactly : Obligations.IllegalFrameExactly := by
  intro p h ws
  change (∃ e, decode p (h :: ws) = .error e) ↔
    (headerRsv h ≠ 0#24 ∨ (headerOpc h ≠ 0x01#8 ∧ headerOpc h ≠ 0x02#8) ∨ (headerOpc h = 0x01#8 ∧ p = .sample) ∨
      (headerOpc h = 0x02#8 ∧ p = .configuration) ∨ (headerOpc h = 0x01#8 ∧ ws.length < 4))
  unfold decode
  by_cases hrsv : headerRsv h = 0#24
  · by_cases hconf : headerOpc h = 0x01#8
    · cases p with
      | configuration => simp [hrsv, hconf, decodePayload_error_iff]
      | sample => simp [hrsv, hconf]
    · by_cases hsamp : headerOpc h = 0x02#8
      · cases p <;> simp [hrsv, hsamp]
      · simp [hrsv, hconf, hsamp]
  · simp [hrsv]

/-- Settles O4: the model's decoding tests on the spec's own words. -/
theorem spelledFramesDecode : Obligations.SpelledFramesDecode :=
  ⟨Tests.test_decode_configure, Tests.test_decode_negative_shift, Tests.test_decode_sample, Tests.test_decode_spb_zero⟩

/-! ### Words as bytes (20_memory R59) -/

/-- Byte `k` of a word is its bits `[8k+7:8k]`. -/
theorem bytesOfWord_getElem? (w : Word) {k : Nat} (hk : k < 4) :
    (bytesOfWord w)[k]? = some ((w >>> (8 * k)).setWidth 8) := by
  have hbits : ∀ n, w.extractLsb' n 8 = (w >>> n).setWidth 8 := fun n => by
    apply BitVec.eq_of_toNat_eq
    simp [BitVec.extractLsb'_toNat]
  unfold bytesOfWord
  simp only [hbits]
  interval_cases k <;> rfl

theorem bytesOfWords_cons (w : Word) (ws : List Word) : bytesOfWords (w :: ws) = bytesOfWord w ++ bytesOfWords ws := rfl

/-- The words read from the bytes of a list of words are the list. -/
theorem wordsOfBytes_bytesOfWords (ws : List Word) : wordsOfBytes (bytesOfWords ws) = ws := by
  induction ws with
  | nil => rfl
  | cons w ws ih =>
    change (w.extractLsb' 24 8 ++ w.extractLsb' 16 8 ++ w.extractLsb' 8 8 ++ w.extractLsb' 0 8 : BitVec (8 + 8 + 8 + 8)) ::
      wordsOfBytes (bytesOfWords ws) = w :: ws
    rw [word_of_bytes, ih]

/-- Byte `k` of word `j` stands at place `4j + k`. -/
theorem bytesOfWords_getElem? (ws : List Word) {j k : Nat} (hj : j < ws.length) (hk : k < 4) :
    (bytesOfWords ws)[4 * j + k]? = some (((ws[j]?).getD 0 >>> (8 * k)).setWidth 8) := by
  induction ws generalizing j with
  | nil => simp at hj
  | cons w ws ih =>
    have hlen : (bytesOfWord w).length = 4 := rfl
    rw [bytesOfWords_cons]
    cases j with
    | zero => rw [List.getElem?_append_left (by omega), Nat.mul_zero, Nat.zero_add, bytesOfWord_getElem? w hk]; rfl
    | succ j =>
      rw [List.getElem?_append_right (by omega), hlen, show 4 * (j + 1) + k - 4 = 4 * j + k by omega,
        ih (by simpa using hj), List.getElem?_cons_succ]

/-- Settles O5: both by induction on the words. -/
theorem bytesCarryWords : Obligations.BytesCarryWords := fun ws =>
  ⟨wordsOfBytes_bytesOfWords ws, fun _ hj _ hk => bytesOfWords_getElem? ws hj hk⟩

end Sys2Proof
end

section
/-! What one SAMPLE does, completely: to the block, to its slot, and to nothing else (40_synthesizer R100 to R119, 20_memory
R53 to R61). -/

namespace Sys2Proof.Machine

/-! ### The bit source (20_memory R53) -/

/-- Settles O39: the defined byte and the draw are the two ways a read answers. -/
theorem bitSourceRead : Obligations.BitSourceRead := by
  intro s a
  refine ⟨fun hlt hmem => ?_, fun b hb => State.sourceByte_listed hb, fun h => ?_⟩
  · exact State.readBitSource_defined (State.definedByte_eq_some.2 ⟨⟨hlt, hmem⟩, rfl⟩)
  · exact State.readBitSource_draw (State.definedByte_eq_none.2 h)

/-! ### The fetch -/

/-- The bit a fetch reads: bit `7 - BP mod 8` of the byte at `BP / 8`, the defined one or a draw (40_synthesizer R107,
R108). -/
def State.nextBit (s : State) : Bool :=
  ((s.definedByte (s.regs.bp.toNat / 8)).getD (Config.freeByte s.draws)).getLsbD (7 - s.regs.bp.toNat % 8)

theorem State.bit8_readBitSource (s : State) :
    bit8 (s.readBitSource (fetchAddr s.regs.bp)).1 (fetchBit s.regs.bp) = s.nextBit := by
  rw [bit8_eq_getLsbD _ (fetchBit_lt _), fetchBit_eq, fetchAddr_eq, State.readBitSource_byte, State.nextBit]

theorem Regs.reportDue_eq_true_iff (r : Regs) : r.reportDue = true ↔ r.notice ≤ r.pcnt := decide_eq_true_iff

/-- The registers after a fetch: the bit and BP, and PCNT and PACC by the progress test (40_synthesizer R108 to R110). -/
theorem State.fetchSymbol_regs_eq (s : State) :
    s.fetchSymbol.regs =
      if s.regs.notice ≤ s.regs.pcnt then (s.regs.fetched s.nextBit).reported else (s.regs.fetched s.nextBit).countedFetch := by
  rw [State.fetchSymbol_regs, State.bit8_readBitSource]
  simp only [Regs.reportDue_eq_true_iff]

/-- A fetch takes a draw exactly when its byte is not defined (20_memory R53). -/
theorem State.fetchSymbol_draws (s : State) :
    s.fetchSymbol.draws = s.draws + if (s.definedByte (s.regs.bp.toNat / 8)).isSome then 0 else 1 := by
  have h := congrArg State.draws s.fetchSymbol_eq
  rw [fetchAddr_eq] at h
  rw [h]
  split_ifs <;> rfl

@[simp] theorem State.fetchSymbol_spb (s : State) : s.fetchSymbol.regs.spb = s.regs.spb := by
  rw [State.fetchSymbol_regs_eq]; split_ifs <;> rfl

@[simp] theorem State.fetchSymbol_total (s : State) : s.fetchSymbol.regs.total = s.regs.total := by
  rw [State.fetchSymbol_regs_eq]; split_ifs <;> rfl

@[simp] theorem State.fetchSymbol_notice (s : State) : s.fetchSymbol.regs.notice = s.regs.notice := by
  rw [State.fetchSymbol_regs_eq]; split_ifs <;> rfl

/-! ### An active SAMPLE, outcome by outcome -/

/-- Settles O33: only the counter and the NCO stage act within a symbol. -/
theorem sampleWithinSymbol : Obligations.SampleWithinSymbol := by
  intro s h hb
  refine ⟨_, exec_sample s, State.sample_within_regs _ h hb, ?_, ?_⟩
  · rw [State.sample_within _ h hb]
    exact State.ncoStage_emits_sampleOfPhase _
  · rw [State.sample_within _ h hb, State.ncoStage_draws]
    rfl

/-- The registers a boundary with a fetch leaves (40_synthesizer R104 to R110, R116). -/
theorem State.sample_fetch_regs_eq {s : State} (p : Params) (h : s.regs.cfg = true) (hb : s.regs.sc = s.regs.spb)
    (hc : ¬ s.regs.total < s.regs.bp) :
    (s.sample p).regs = { s.regs with
      cs := s.nextBit
      bp := s.regs.bp + 1
      sc := 0
      pcnt := if s.regs.notice ≤ s.regs.pcnt then 0 else s.regs.pcnt + 1
      pacc := if s.regs.notice ≤ s.regs.pcnt then s.regs.pacc + 1 else s.regs.pacc
      phase := s.regs.phase + (if s.nextBit then s.regs.inc1 else s.regs.inc0) } := by
  rw [State.sample_fetch_regs p h hb hc, State.fetchSymbol_regs_eq]
  split_ifs with hdue hbit hbit <;> simp only [Regs.advanced, Regs.tone, Regs.restartedSymbol, Regs.reported,
    Regs.countedFetch, Regs.fetched, hbit] <;> rfl

/-- The draws a boundary with a fetch leaves taken (20_memory R53). -/
theorem State.sample_fetch_draws {s : State} (p : Params) (h : s.regs.cfg = true) (hb : s.regs.sc = s.regs.spb)
    (hc : ¬ s.regs.total < s.regs.bp) :
    (s.sample p).draws = s.draws + if (s.definedByte (s.regs.bp.toNat / 8)).isSome then 0 else 1 := by
  rw [State.sample_fetch p h hb hc, State.ncoStage_draws, State.withRegs_draws, State.fetchSymbol_draws]

/-- The events a boundary with a fetch adds: a report when one is due, and the sample (40_synthesizer R110, R119). -/
theorem State.sample_fetch_events {s : State} (h : s.regs.cfg = true) (hb : s.regs.sc = s.regs.spb)
    (hc : ¬ s.regs.total < s.regs.bp) :
    (s.sample Config.params).events =
      s.events ++ (if s.regs.notice ≤ s.regs.pcnt then [.report (s.regs.pacc + 1) false] else []) ++
        [sampleOfPhase (s.sample Config.params).regs.phase] := by
  rw [State.sample_fetch _ h hb hc, State.ncoStage_emits_sampleOfPhase, State.withRegs_events, State.fetchSymbol_events]
  simp only [Regs.reportDue_eq_true_iff]

/-- Settles O34: the fetch's registers, events and draws. -/
theorem sampleFetch : Obligations.SampleFetch := by
  intro s h hb hle
  have hc : ¬ s.regs.total < s.regs.bp := Nat.not_lt.2 hle
  exact ⟨_, s.nextBit, exec_sample s, rfl, State.sample_fetch_regs_eq _ h hb hc, State.sample_fetch_events h hb hc,
    State.sample_fetch_draws _ h hb hc⟩

/-- Settles O35: the completion branch and silence. -/
theorem sampleCompletes : Obligations.SampleCompletes := by
  intro s h hb hc
  refine ⟨_, exec_sample s, State.sample_complete_regs _ h hb hc, ?_, ?_⟩
  · rw [State.sample_complete_events _ h hb hc, List.append_assoc, List.singleton_append]
  · rw [State.sample_complete _ h hb hc, State.output_draws]
    rfl

/-! ### What a SAMPLE leaves alone -/

/-- The shape of every SAMPLE: registers, draws and at most one report change, and then one pair is output (40_synthesizer
R100, R119). -/
def State.outputAfter (s : State) (r : Regs) (rs : List Event) (d : Nat) (i q : Byte) : State :=
  ({ s with regs := r, events := s.events ++ rs, draws := d } : State).output i q

section
variable {s : State} (p : Params)

theorem State.sample_idle_eq (h : s.regs.cfg = false) : s.sample p = s.outputAfter s.regs [] s.draws 0 0 := by
  rw [State.sample_idle p h, State.outputAfter, List.append_nil]

theorem State.sample_within_eq (h : s.regs.cfg = true) (hb : s.regs.sc ≠ s.regs.spb) :
    s.sample p = s.outputAfter s.regs.countedSample.advanced [] s.draws (inPhase p s.regs.countedSample.advanced.phase)
      (quadrature p s.regs.countedSample.advanced.phase) := by
  rw [State.sample_within p h hb, State.outputAfter, List.append_nil]
  rfl

theorem State.sample_complete_eq (h : s.regs.cfg = true) (hb : s.regs.sc = s.regs.spb) (hc : s.regs.total < s.regs.bp) :
    s.sample p = s.outputAfter s.regs.completed.restartedSymbol [.report s.regs.pacc true] s.draws 0 0 :=
  State.sample_complete p h hb hc

theorem State.sample_fetch_eq (h : s.regs.cfg = true) (hb : s.regs.sc = s.regs.spb) (hc : ¬ s.regs.total < s.regs.bp) :
    s.sample p = s.outputAfter s.fetchSymbol.regs.restartedSymbol.advanced
      (if s.regs.reportDue then [.report (s.regs.pacc + 1) false] else []) s.fetchSymbol.draws
      (inPhase p s.fetchSymbol.regs.restartedSymbol.advanced.phase)
      (quadrature p s.fetchSymbol.regs.restartedSymbol.advanced.phase) := by
  rw [State.sample_fetch p h hb hc, State.ncoStage, State.fetchSymbol_eq]
  rfl

end

/-- Two states with the same block, bit source and observation; the ports, turns, slots and buffers, which no SAMPLE reads,
may differ (10_state R20, 20_memory R52, R61). -/
structure SameBlock (s u : State) : Prop where
  regs : u.regs = s.regs
  source : u.bitSource = s.bitSource
  len : u.runLen = s.runLen
  written : u.hostWritten = s.hostWritten
  events : u.events = s.events
  draws : u.draws = s.draws

namespace SameBlock
variable {s u v : State}

theorem refl (s : State) : SameBlock s s := ⟨rfl, rfl, rfl, rfl, rfl, rfl⟩

theorem symm (h : SameBlock s u) : SameBlock u s :=
  ⟨h.regs.symm, h.source.symm, h.len.symm, h.written.symm, h.events.symm, h.draws.symm⟩

theorem trans (h : SameBlock s u) (h' : SameBlock u v) : SameBlock s v :=
  ⟨h'.regs.trans h.regs, h'.source.trans h.source, h'.len.trans h.len, h'.written.trans h.written, h'.events.trans h.events,
    h'.draws.trans h.draws⟩

theorem definedByte (h : SameBlock s u) (a : Nat) : u.definedByte a = s.definedByte a := by
  rw [State.definedByte, State.definedByte, State.sourceByte, State.sourceByte, h.source, h.len, h.written]

theorem nextBit (h : SameBlock s u) : u.nextBit = s.nextBit := by
  rw [State.nextBit, State.nextBit, h.definedByte, h.regs, h.draws]

theorem fetchSymbol_regs (h : SameBlock s u) : u.fetchSymbol.regs = s.fetchSymbol.regs := by
  rw [State.fetchSymbol_regs_eq, State.fetchSymbol_regs_eq, h.nextBit, h.regs]

theorem fetchSymbol_draws (h : SameBlock s u) : u.fetchSymbol.draws = s.fetchSymbol.draws := by
  rw [State.fetchSymbol_draws, State.fetchSymbol_draws, h.definedByte, h.regs, h.draws]

/-- A SAMPLE changes and outputs the same from both states. -/
theorem sample_eq_outputAfter (h : SameBlock s u) (p : Params) :
    ∃ r rs d i q, s.sample p = s.outputAfter r rs d i q ∧ u.sample p = u.outputAfter r rs d i q ∧
      (rs = [] ∨ ∃ progress done, rs = [.report progress done]) := by
  rcases s.sample_cases p with ⟨hcfg, -⟩ | ⟨hcfg, hb, -⟩ | ⟨hcfg, hb, hc, -⟩ | ⟨hcfg, hb, hc, -⟩
  · refine ⟨_, _, _, _, _, State.sample_idle_eq p hcfg, ?_, .inl rfl⟩
    rw [← h.regs] at hcfg
    rw [State.sample_idle_eq p hcfg, h.regs, h.draws]
  · refine ⟨_, _, _, _, _, State.sample_within_eq p hcfg hb, ?_, .inl rfl⟩
    rw [← h.regs] at hcfg hb
    rw [State.sample_within_eq p hcfg hb, h.regs, h.draws]
  · refine ⟨_, _, _, _, _, State.sample_complete_eq p hcfg hb hc, ?_, .inr ⟨_, _, rfl⟩⟩
    rw [← h.regs] at hcfg hb hc
    rw [State.sample_complete_eq p hcfg hb hc, h.regs, h.draws]
  · refine ⟨_, _, _, _, _, State.sample_fetch_eq p hcfg hb hc, ?_, ?_⟩
    · rw [← h.regs] at hcfg hb hc
      rw [State.sample_fetch_eq p hcfg hb hc, h.fetchSymbol_regs, h.fetchSymbol_draws, h.regs]
    · split_ifs
      · exact .inr ⟨_, _, rfl⟩
      · exact .inl rfl

/-- A SAMPLE keeps the block the same. -/
theorem sample (h : SameBlock s u) (p : Params) : SameBlock (s.sample p) (u.sample p) := by
  obtain ⟨r, rs, d, i, q, hs, hu, -⟩ := h.sample_eq_outputAfter p
  rw [hs, hu, State.outputAfter, State.outputAfter]
  exact ⟨by simp, by simp [h.source], by simp [h.len], by simp [h.written], by simp [h.events], by simp⟩

end SameBlock

/-- Every SAMPLE is the output of one pair from a state that differs only in the registers, the draws and at most one report
among the events (40_synthesizer R100, R119). -/
theorem State.sample_eq_output (p : Params) (s : State) :
    ∃ r rs d i q, s.sample p = ({ s with regs := r, events := s.events ++ rs, draws := d } : State).output i q ∧
      (rs = [] ∨ ∃ progress done, rs = [.report progress done]) := by
  obtain ⟨r, rs, d, i, q, hs, -, hrs⟩ := (SameBlock.refl s).sample_eq_outputAfter p
  exact ⟨r, rs, d, i, q, hs, hrs⟩

section
variable (p : Params) (s : State)

@[simp] theorem State.sample_bitSource : (s.sample p).bitSource = s.bitSource := by
  obtain ⟨r, rs, d, i, q, h, -⟩ := s.sample_eq_output p; rw [h, State.output_bitSource]

@[simp] theorem State.sample_runLen : (s.sample p).runLen = s.runLen := by
  obtain ⟨r, rs, d, i, q, h, -⟩ := s.sample_eq_output p; rw [h, State.output_runLen]

@[simp] theorem State.sample_declaredLen : (s.sample p).declaredLen = s.declaredLen := by
  obtain ⟨r, rs, d, i, q, h, -⟩ := s.sample_eq_output p; rw [h, State.output_declaredLen]

@[simp] theorem State.sample_hostWritten : (s.sample p).hostWritten = s.hostWritten := by
  obtain ⟨r, rs, d, i, q, h, -⟩ := s.sample_eq_output p; rw [h, State.output_hostWritten]

@[simp] theorem State.sample_configurationPort : (s.sample p).configurationPort = s.configurationPort := by
  obtain ⟨r, rs, d, i, q, h, -⟩ := s.sample_eq_output p; rw [h, State.output_configurationPort]

@[simp] theorem State.sample_samplePort : (s.sample p).samplePort = s.samplePort := by
  obtain ⟨r, rs, d, i, q, h, -⟩ := s.sample_eq_output p; rw [h, State.output_samplePort]

@[simp] theorem State.sample_port (port : Port) : (s.sample p).port port = s.port port := by
  obtain ⟨r, rs, d, i, q, h, -⟩ := s.sample_eq_output p; rw [h, State.output_port]; rfl

@[simp] theorem State.sample_hostActs : (s.sample p).hostActs = s.hostActs := by
  obtain ⟨r, rs, d, i, q, h, -⟩ := s.sample_eq_output p; rw [h, State.output_hostActs]

@[simp] theorem State.sample_turns : (s.sample p).turns = s.turns := by
  obtain ⟨r, rs, d, i, q, h, -⟩ := s.sample_eq_output p; rw [h, State.output_turns]

@[simp] theorem State.sample_slots : (s.sample p).slots = s.slots.tail := by
  obtain ⟨r, rs, d, i, q, h, -⟩ := s.sample_eq_output p; rw [h, State.output_slots]

end

/-- A SAMPLE keeps SPB, TOTAL, INC0, INC1 and NOTICE (10_state R37). -/
theorem State.sample_keeps_configuration (p : Params) (s : State) :
    (s.sample p).regs.spb = s.regs.spb ∧ (s.sample p).regs.total = s.regs.total ∧ (s.sample p).regs.inc0 = s.regs.inc0 ∧
      (s.sample p).regs.inc1 = s.regs.inc1 ∧ (s.sample p).regs.notice = s.regs.notice := by
  rcases s.sample_cases p with ⟨-, h⟩ | ⟨-, -, h⟩ | ⟨-, -, -, h⟩ | ⟨-, -, -, h⟩ <;> rw [h] <;> simp

/-- Settles O37: a SAMPLE writes no configuration register, and the fields its output does not touch stay. -/
theorem sampleFrame : Obligations.SampleFrame := by
  intro s
  obtain ⟨hspb, htotal, hinc0, hinc1, hnotice⟩ := s.sample_keeps_configuration Config.params
  exact ⟨_, exec_sample s, hspb, htotal, hinc0, hinc1, hnotice, fun a => by rw [State.sample_bitSource],
    s.sample_runLen _, s.sample_declaredLen _, s.sample_hostWritten _, s.sample_port _, s.sample_hostActs _, s.sample_turns _⟩

/-! ### The slot of a SAMPLE (20_memory R57, R58) -/

theorem State.writeSlot_of_some {s : State} {k : Nat} (i q : Byte) (h : s.slots.head? = some (some k)) :
    (s.writeSlot i q).out = Memory.writePair (if k = 0 then [] else s.out) k i q ∧ (s.writeSlot i q).lone = s.lone := by
  rw [State.writeSlot_out, State.writeSlot_lone, List.headD_eq_head?_getD, h]
  exact ⟨rfl, rfl⟩

theorem State.writeSlot_of_none {s : State} (i q : Byte) (h : s.slots.head? = none ∨ s.slots.head? = some none) :
    (s.writeSlot i q).out = s.out ∧ (s.writeSlot i q).lone = Memory.writePair [] 0 i q := by
  have hd : s.slots.headD none = none := by
    rw [List.headD_eq_head?_getD]
    rcases h with h | h <;> rw [h] <;> rfl
  rw [State.writeSlot_out, State.writeSlot_lone, hd]
  exact ⟨rfl, rfl⟩

/-- The pair a SAMPLE emits, last among its events, is the one it writes into its slot (40_synthesizer R119). -/
theorem State.sample_writes_emitted (p : Params) (s : State) :
    ∃ i q rs, (s.sample p).events = s.events ++ rs ++ [.sample i q] ∧
      (rs = [] ∨ ∃ progress done, rs = [.report progress done]) ∧
      (s.sample p).out = (s.writeSlot i q).out ∧ (s.sample p).lone = (s.writeSlot i q).lone := by
  obtain ⟨r, rs, d, i, q, h, hrs⟩ := s.sample_eq_output p
  refine ⟨i, q, rs, ?_, hrs, ?_, ?_⟩
  · rw [h, State.output_events]
  · rw [h, State.output_out, State.writeSlot_out, State.writeSlot_out]
  · rw [h, State.output_lone, State.writeSlot_lone, State.writeSlot_lone]

/-- The bytes of the buffer after the write of slot `k`, which slot 0 begins anew (20_memory R58, log 11). -/
theorem State.writeSlot_reads {s : State} {k : Nat} (i q : Byte) (h : s.slots.head? = some (some k)) :
    (s.writeSlot i q).out.read (2 * k) = some i ∧ (s.writeSlot i q).out.read (2 * k + 1) = some q ∧
      ∀ a, a ≠ 2 * k → a ≠ 2 * k + 1 → (s.writeSlot i q).out.read a = if k = 0 then none else s.out.read a := by
  obtain ⟨hwrite, -⟩ := State.writeSlot_of_some i q h
  obtain ⟨hi, hq, hother⟩ := Memory.read_writePair (if k = 0 then [] else s.out) k i q
  rw [hwrite]
  refine ⟨hi, hq, fun a h1 h2 => ?_⟩
  rw [hother a h1 h2]
  split_ifs <;> rfl

/-- Settles O38: the emitted pair goes where `writeSlot` puts it, and a pair written into slot `k` is read back from bytes
`2k` and `2k + 1` only. -/
theorem sampleFillsItsSlot : Obligations.SampleFillsItsSlot := by
  intro s
  obtain ⟨i, q, rs, hevents, -, hout, hlone⟩ := s.sample_writes_emitted Config.params
  refine ⟨_, i, q, _, exec_sample s, hevents, s.sample_slots _, fun k hk => ?_, fun hk => ?_⟩
  · obtain ⟨hi, hq, hother⟩ := State.writeSlot_reads i q hk
    obtain ⟨-, hkeep⟩ := State.writeSlot_of_some i q hk
    rw [hout, hlone, hkeep]
    exact ⟨hi, hq, hother, fun _ => rfl⟩
  · obtain ⟨hkeep, hwrite⟩ := State.writeSlot_of_none i q hk
    obtain ⟨hi, hq, hother⟩ := Memory.read_writePair [] 0 i q
    rw [hout, hlone, hwrite, hkeep]
    exact ⟨hi, hq, fun a ha => hother a (by omega) (by omega), fun _ => rfl⟩

end Sys2Proof.Machine
end

section
/-! What one CONFIGURE does, accepted or rejected (41_configure R140 to R151). -/

namespace Sys2Proof.Machine

/-! ### Accepted and rejected -/

/-- The three checks pass exactly for the accepted operands (41_configure R141, R143, R144). -/
theorem configureError_eq_none_iff_accepted {spb : Nat} {shift : Int} {len : Nat} :
    configureError Config.params spb shift len = none ↔ AcceptedOperands spb shift len := configureError_eq_none

/-- Accepted operands load, start the run and reply OK (41_configure R148, R150). -/
theorem State.configure_accepted {p : Params} {spb : Nat} {shift : Int} {len : Nat} (notice : Nat) (s : State)
    (h : configureError p spb shift len = none) :
    s.configure p spb shift len notice = (s.startRun.withRegs (s.regs.loaded p spb shift len notice)).replyOk := by
  rw [State.configure, h]

/-- Operands that fail a check change nothing but the reply (41_configure R142). -/
theorem State.configure_rejected {p : Params} {spb : Nat} {shift : Int} {len : Nat} {r : Reason} (notice : Nat) (s : State)
    (h : configureError p spb shift len = some r) : s.configure p spb shift len notice = s.raise r := by
  rw [State.configure, h]

/-- The registers a CONFIGURE loads, as words of the operands (41_configure R140, R145 to R149). -/
theorem Regs.loaded_eq (p : Params) (spb : Nat) (shift : Int) (len notice : Nat) (r : Regs) :
    r.loaded p spb shift len notice =
      { spb := BitVec.ofNat 32 spb, total := BitVec.ofNat 32 (len + 4), inc0 := BitVec.ofInt 32 (shift * (p.phaseScale : Int)),
        inc1 := BitVec.ofInt 32 (-(shift * (p.phaseScale : Int))), notice := BitVec.ofNat 32 notice,
        phase := if p.phaseReset then 0 else r.phase, bp := 0, sc := BitVec.ofNat 32 spb, cs := false, cfg := true,
        pcnt := 0, pacc := 0 } := by
  rw [Regs.loaded, ← Nat.cast_add, u32_natCast, u32_natCast, u32_natCast]
  rfl

/-- Settles O19: the checks pass, and the loaded registers are those words. -/
theorem configureAccepted : Obligations.ConfigureAccepted := by
  intro s spb shift len notice h
  rw [exec_configure, State.configure_accepted notice s (configureError_eq_none_iff_accepted.2 h), Regs.loaded_eq]
  rfl

/-- Settles O21: each check is the first that fails. -/
theorem configureRejections : Obligations.ConfigureRejections := by
  refine ⟨fun s spb shift len notice => exec_configure spb shift len notice s, fun p s spb shift len notice =>
    ⟨fun hspb => State.configure_rejected notice s ?_, fun hspb hlen => State.configure_rejected notice s ?_,
      fun hspb hlen hinc => State.configure_rejected notice s ?_⟩⟩
  · rw [configureError, if_pos hspb]
  · rw [configureError, if_neg hspb, if_pos hlen]
  · rw [configureError, if_neg hspb, if_neg (Nat.not_lt.2 hlen)]
    exact if_pos hinc

/-- Settles O24: neither the load nor the rejection touches these fields, and each replies once. -/
theorem configureFrame : Obligations.ConfigureFrame := by
  intro s spb shift len notice
  refine ⟨s.configure Config.params spb shift len notice, ?_⟩
  rcases State.configure_cases Config.params spb shift len notice s with ⟨r, -, h⟩ | ⟨-, h⟩ <;> rw [h] <;>
    exact ⟨_, by rw [exec_configure, h], rfl, fun _ => rfl, fun _ => rfl, fun _ => rfl, rfl, fun p => by cases p <;> rfl,
      rfl, rfl, rfl, rfl⟩

/-- Settles O41: the run starts with the declared length and no mark, on the bit source as it stands. -/
theorem writesBeforeRunAreSeen : Obligations.WritesBeforeRunAreSeen := by
  intro s t spb shift len notice hexec hok a
  obtain rfl : s.configure Config.params spb shift len notice = t := Host.Outcome.next.inj hexec
  obtain ⟨-, hload⟩ := State.configure_eq_of_ok hok
  refine ⟨?_, fun b hb => State.sourceByte_listed hb⟩
  rw [hload, State.definedByte]
  simp [State.sourceByte]

/-! ### The increment as a number -/

/-- Settles O23: a product with `K > 0` is within bounds exactly when the factor is within their quotients. -/
theorem acceptedShiftRange : Obligations.AcceptedShiftRange := by
  intro p spb shift len hk hspb hlen
  have hk' : (0 : Int) < p.phaseScale := Int.natCast_pos.2 hk
  have hlow : -2 ^ 31 ≤ shift * (p.phaseScale : Int) ↔ -((2 ^ 31 / p.phaseScale : Nat) : Int) ≤ shift := by
    rw [neg_le (b := shift * _), neg_le (b := shift), ← neg_mul, Int.natCast_ediv, Int.le_ediv_iff_mul_le hk']
    rfl
  have hhigh : shift * (p.phaseScale : Int) ≤ 2 ^ 31 - 1 ↔ shift ≤ (((2 ^ 31 - 1) / p.phaseScale : Nat) : Int) := by
    rw [Int.natCast_ediv, Int.le_ediv_iff_mul_le hk']
    rfl
  rw [configureError_eq_none, increment, hlow, hhigh]
  exact ⟨fun ⟨_, _, h⟩ => h, fun h => ⟨hspb, hlen, h⟩⟩

/-- Settles O57: the increment is `shift` times `floor(2^32 / F_S)`, and that quotient times `F_S` is short of `2^32` by the
remainder. -/
theorem toneTruncation : Obligations.ToneTruncation := by
  intro fs spb shift len notice table s hfs hnone
  refine ⟨_, rfl, ?_⟩
  obtain ⟨-, -, hlow, hhigh⟩ := configureError_eq_none.1 hnone
  have hinc : s32 (s.configure (Params.ofRate fs table) spb shift len notice).regs.inc0 =
      shift * ((2 ^ 32 / fs : Nat) : Int) := by
    rw [State.configure_accepted notice s hnone]
    exact s32_u32 hlow hhigh
  have hmul : shift * ((2 ^ 32 / fs : Nat) : Int) * fs = shift * ((2 ^ 32 / fs * fs : Nat) : Int) := by
    rw [Nat.cast_mul, mul_assoc]
  have hrest : shift * 2 ^ 32 - shift * ((2 ^ 32 / fs * fs : Nat) : Int) = shift * ((2 ^ 32 % fs : Nat) : Int) := by
    have hdiv : ((2 ^ 32 / fs * fs : Nat) : Int) + ((2 ^ 32 % fs : Nat) : Int) = 2 ^ 32 := by
      exact_mod_cast Nat.div_add_mod' (2 ^ 32) fs
    rw [← mul_sub, ← hdiv, add_sub_cancel_left]
  rw [hinc, hmul, hrest, Int.natAbs_mul, Int.natAbs_mul, Int.natAbs_mul, Int.natAbs_natCast, Int.natAbs_natCast]
  exact ⟨Nat.mul_le_mul_left _ (Nat.div_mul_le_self _ _), Nat.mul_le_mul_left _ (Nat.mod_lt _ hfs).le⟩

/-! ### The first SAMPLE of a run -/

/-- Registers just loaded are a boundary with a fetch: `SC = SPB`, and `BP = 0` is not beyond TOTAL (41_configure R148,
40_synthesizer R105). -/
theorem Regs.loaded_fetches (p : Params) (spb : Nat) (shift : Int) (len notice : Nat) (r : Regs) :
    ¬ (r.loaded p spb shift len notice).total < (r.loaded p spb shift len notice).bp := BitVec.not_lt_zero

/-- A report is due at once exactly for the interval 0 (40_synthesizer R110). -/
theorem u32_le_zero_iff {n : Nat} (h : n < 2 ^ 32) : u32 (n : Int) ≤ 0 ↔ n = 0 := by
  rw [BitVec.le_def, toNat_u32_natCast h]
  exact Nat.le_zero

/-- At `BP = 0` the next bit is the most significant of byte 0. -/
theorem State.nextBit_of_bp_zero {t : State} (h : t.regs.bp = 0) :
    t.nextBit = ((t.definedByte 0).getD (Config.freeByte t.draws)).getLsbD 7 := by rw [State.nextBit, h]; rfl

/-- The SAMPLE after a load fetches stream bit 0 and adds its tone to the phase the load left (41_configure R148, R153). -/
theorem State.sample_loaded {t : State} {r : Regs} {p : Params} {spb : Nat} {shift : Int} {len notice : Nat}
    (hregs : t.regs = r.loaded p spb shift len notice) (hnotice : notice < 2 ^ 32) :
    (t.sample p).regs = { t.regs with
      cs := t.nextBit
      bp := 1
      sc := 0
      pcnt := if notice = 0 then 0 else 1
      pacc := if notice = 0 then 1 else 0
      phase := t.regs.phase + BitVec.ofInt 32 (if t.nextBit then -increment p shift else increment p shift) } := by
  have hdue : t.regs.notice ≤ t.regs.pcnt ↔ notice = 0 := by rw [hregs]; exact u32_le_zero_iff hnotice
  have hfetch := State.sample_fetch_regs_eq p (s := t) (by rw [hregs]; rfl) (by rw [hregs]; rfl)
    (by rw [hregs]; exact Regs.loaded_fetches _ _ _ _ _ _)
  simp only [hdue] at hfetch
  rw [hfetch, hregs]
  split_ifs <;> rfl

/-- Settles O25: the accepted CONFIGURE leaves a boundary with `BP = 0`, so the next SAMPLE is the fetch of bit 0. -/
theorem configureTakesEffectAtOnce : Obligations.ConfigureTakesEffectAtOnce := by
  intro s spb shift len notice hwf haccepted
  obtain ⟨-, -, hnotice⟩ := unsigned_operands_of_wf hwf
  obtain ⟨t, ht⟩ : ∃ t, t = (s.startRun.withRegs (s.regs.loaded Config.params spb shift len notice)).replyOk := ⟨_, rfl⟩
  have hexec : exec (.configure spb shift len notice) s = .next t := by
    rw [exec_configure, State.configure_accepted notice s (configureError_eq_none_iff_accepted.2 haccepted), ht]
  have hregs : t.regs = s.regs.loaded Config.params spb shift len notice := by rw [ht]; rfl
  have hevents := State.sample_fetch_events (s := t) (by rw [hregs]; rfl) (by rw [hregs]; rfl)
    (by rw [hregs]; exact Regs.loaded_fetches _ _ _ _ _ _)
  have hdue : t.regs.notice ≤ t.regs.pcnt ↔ notice = 0 := by rw [hregs]; exact u32_le_zero_iff hnotice
  have hpacc : t.regs.pacc + 1 = 1 := by rw [hregs]; rfl
  simp only [hdue, hpacc] at hevents
  refine ⟨t, _, (t.definedByte 0).getD (Config.freeByte t.draws), hexec, exec_sample t, by rw [ht]; rfl, rfl, ?_⟩
  rw [← State.nextBit_of_bp_zero (t := t) (by rw [hregs]; rfl), hevents, State.sample_loaded hregs hnotice]
  exact ⟨rfl, rfl, rfl, by rw [hregs]; rfl, rfl, rfl, rfl⟩

end Sys2Proof.Machine
end

section
/-! The invariants of the registers, kept by every step of every agent (10_state R36). -/

namespace Sys2Proof.Machine

/-! ### Counting without a wrap -/

/-- A word below the largest counts up as a number. -/
theorem toNat_add_one {x : Word} (h : x.toNat + 1 < 2 ^ 32) : (x + 1).toNat = x.toNat + 1 :=
  BitVec.toNat_add_of_lt (y := 1) h

theorem toNat_add_one_of_lt {x y : Word} (h : x < y) : (x + 1).toNat = x.toNat + 1 := by
  have hlt : x.toNat < y.toNat := h
  have hy := y.isLt
  exact toNat_add_one (by omega)

theorem add_one_le_of_lt {x y : Word} (h : x < y) : x + 1 ≤ y := by
  rw [BitVec.le_def, toNat_add_one_of_lt h]
  exact h

namespace Regs.Inv
variable {r : Regs}

/-- Within a symbol SC is below SPB (10_state R36 item 1). -/
theorem sc_lt_spb (h : r.Inv) (hb : r.sc ≠ r.spb) : r.sc < r.spb := BitVec.lt_of_le_ne h.counter hb

/-- At a fetch BP counts up as a number (10_state R36 item 2). -/
theorem bp_add_one (h : r.Inv) (hcfg : r.cfg = true) (hc : ¬ r.total < r.bp) : (r.bp + 1).toNat = r.bp.toNat + 1 := by
  have hle : r.bp.toNat ≤ r.total.toNat := Nat.not_lt.1 hc
  have hhigh := h.totalHigh hcfg
  exact toNat_add_one (by omega)

/-- At a fetch PACC counts up as a number (10_state R36 items 2 and 5). -/
theorem pacc_add_one (h : r.Inv) (hcfg : r.cfg = true) (hc : ¬ r.total < r.bp) :
    (r.pacc + 1).toNat = r.pacc.toNat + 1 := by
  have hle : r.bp.toNat ≤ r.total.toNat := Nat.not_lt.1 hc
  have hpacc : r.pacc.toNat ≤ r.bp.toNat := h.reports
  have hhigh := h.totalHigh hcfg
  exact toNat_add_one (by omega)

/-! ### The invariants after each register operation -/

/-- The NCO stage writes PHASE only, of which no invariant speaks. -/
theorem advanced (h : r.Inv) : r.advanced.Inv :=
  ⟨h.counter, h.symbolLength, h.totalLow, h.totalHigh, h.position, h.progress, h.increments, h.reports⟩

theorem countedSample (h : r.Inv) (hb : r.sc ≠ r.spb) : r.countedSample.Inv :=
  { h with counter := add_one_le_of_lt (h.sc_lt_spb hb) }

theorem restartedSymbol (h : r.Inv) : r.restartedSymbol.Inv := { h with counter := Nat.zero_le _ }

/-- Completion leaves the block Idle, where the run's bounds say nothing. -/
theorem completed (h : r.Inv) : r.completed.Inv :=
  { h with symbolLength := nofun, totalLow := nofun, totalHigh := nofun, position := nofun }

/-- A fetch moves BP to at most `TOTAL + 1`, and PACC stays at most BP. -/
theorem fetched (h : r.Inv) (hcfg : r.cfg = true) (hc : ¬ r.total < r.bp) (bit : Bool) : (r.fetched bit).Inv where
  counter := h.counter
  symbolLength := h.symbolLength
  totalLow := h.totalLow
  totalHigh := h.totalHigh
  position := fun _ => by
    rw [fetched_bp, fetched_total, h.bp_add_one hcfg hc]
    exact Nat.add_le_add_right (Nat.not_lt.1 hc) 1
  progress := h.progress
  increments := h.increments
  reports := by
    have hpacc : r.pacc.toNat ≤ r.bp.toNat := h.reports
    rw [fetched_pacc, fetched_bp, BitVec.le_def, h.bp_add_one hcfg hc]
    omega

/-- After a fetch a report counts PACC up to at most BP. -/
theorem fetched_reported (h : r.Inv) (hcfg : r.cfg = true) (hc : ¬ r.total < r.bp) (bit : Bool) :
    (r.fetched bit).reported.Inv :=
  { h.fetched hcfg hc bit with
    progress := Nat.zero_le _
    reports := by
      have hpacc : r.pacc.toNat ≤ r.bp.toNat := h.reports
      rw [reported_pacc, reported_bp, fetched_pacc, fetched_bp, BitVec.le_def, h.pacc_add_one hcfg hc, h.bp_add_one hcfg hc]
      omega }

/-- A fetch without a report counts PCNT up to at most NOTICE. -/
theorem fetched_countedFetch (h : r.Inv) (hcfg : r.cfg = true) (hc : ¬ r.total < r.bp) (bit : Bool)
    (hdue : ¬ r.notice ≤ r.pcnt) : (r.fetched bit).countedFetch.Inv :=
  { h.fetched hcfg hc bit with progress := add_one_le_of_lt (BitVec.not_le.1 hdue) }

/-- The reset values have the invariants, whatever PHASE is drawn (70_reset R180). -/
theorem initial (phase : Word) : (Regs.initial phase).Inv where
  counter := BitVec.le_refl 0#32
  symbolLength := nofun
  totalLow := nofun
  totalHigh := nofun
  position := nofun
  progress := BitVec.le_refl 0#32
  increments := show 0#32 = u32 (-s32 0#32) by decide
  reports := BitVec.le_refl 0#32

/-- Accepted operands in range load registers with the invariants (41_configure R140 to R150). -/
theorem loaded {p : Params} {spb : Nat} {shift : Int} {len notice : Nat} (r : Regs) (hspb : spb < 2 ^ 32)
    (hnotice : notice < 2 ^ 32) (hnone : configureError p spb shift len = none) :
    (r.loaded p spb shift len notice).Inv := by
  obtain ⟨hzero, hlen, -, -⟩ := configureError_eq_none.1 hnone
  obtain ⟨hspbValue, htotalValue, -, -⟩ := r.loaded_values hspb hnotice hnone
  exact {
    counter := BitVec.le_refl (u32 spb)
    symbolLength := fun _ => by rw [hspbValue]; omega
    totalLow := fun _ => by rw [htotalValue]; omega
    totalHigh := fun _ => by rw [htotalValue]; omega
    position := fun _ => Nat.zero_le _
    progress := Nat.zero_le _
    increments := by rw [loaded_inc1_eq_neg, u32_neg, u32_s32]
    reports := Nat.zero_le _ }

end Regs.Inv

/-! ### The invariants after each command -/

theorem State.fetchSymbol_inv {s : State} (h : s.regs.Inv) (hcfg : s.regs.cfg = true) (hc : ¬ s.regs.total < s.regs.bp) :
    s.fetchSymbol.regs.Inv := by
  rw [State.fetchSymbol_regs_eq]
  split_ifs with hdue
  · exact h.fetched_reported hcfg hc _
  · exact h.fetched_countedFetch hcfg hc _ hdue

theorem State.sample_inv {s : State} (p : Params) (h : s.regs.Inv) : (s.sample p).regs.Inv := by
  rcases s.sample_cases p with ⟨-, hs⟩ | ⟨-, hb, hs⟩ | ⟨hcfg, hb, hc, -⟩ | ⟨hcfg, hb, hc, -⟩
  · rw [hs, State.output_regs]
    exact h
  · rw [hs, State.ncoStage_regs]
    exact (h.countedSample hb).advanced
  · rw [State.sample_complete_regs p hcfg hb hc]
    exact h.completed.restartedSymbol
  · rw [State.sample_fetch_regs p hcfg hb hc]
    exact (State.fetchSymbol_inv h hcfg hc).restartedSymbol.advanced

theorem State.configure_inv {s : State} (p : Params) {spb : Nat} (shift : Int) (len : Nat) {notice : Nat} (h : s.regs.Inv)
    (hspb : spb < 2 ^ 32) (hnotice : notice < 2 ^ 32) : (s.configure p spb shift len notice).regs.Inv := by
  rcases State.configure_cases p spb shift len notice s with ⟨r, -, hs⟩ | ⟨hnone, hs⟩ <;> rw [hs]
  · exact h
  · exact Regs.Inv.loaded s.regs hspb hnotice hnone

/-- The operands a CONFIGURE is decoded with are in range (30_encoding R73). -/
theorem unsigned_operands_of_decode {p : Port} {ws rest : List Word} {spb : Nat} {shift : Int} {len notice : Nat}
    (h : decode p ws = .ok (.configure spb shift len notice, rest)) : spb < 2 ^ 32 ∧ len < 2 ^ 32 ∧ notice < 2 ^ 32 :=
  unsigned_operands_of_wf (decodeOnlyOwnFrame _ _ _ _ h).1

/-- Settles O14: the reset registers are the initial ones. -/
theorem invariantsAtReset : Obligations.InvariantsAtReset := Regs.Inv.initial _

/-- Settles O15: a step does nothing to the registers, or it is a reset, a SAMPLE or a CONFIGURE with decoded operands. -/
theorem invariantsKeptByStep : Obligations.InvariantsKeptByStep := by
  intro s t h hstep
  rcases step_commands hstep with ⟨hregs, -⟩ | ⟨ts, -, rfl⟩ | ⟨ts, rest, -, -, rfl⟩ |
    ⟨ts, spb, shift, len, notice, rest, -, hdecode, rfl⟩
  · rw [hregs]
    exact h
  · exact Regs.Inv.initial _
  · exact State.sample_inv _ h
  · obtain ⟨hspb, -, hnotice⟩ := unsigned_operands_of_decode hdecode
    exact State.configure_inv _ shift len h hspb hnotice

/-- Settles O16: under the invariants every count is up to a bound that a word holds. -/
theorem countersNeverWrap : Obligations.CountersNeverWrap := by
  intro s h
  refine ⟨_, exec_sample s, fun hidle => ?_, fun hcfg hb => ?_, fun hcfg hb hgt => ?_, fun hcfg hb hle => ?_⟩
  · rw [State.sample_idle _ hidle, State.output_regs]
  · rw [State.sample_within_regs _ hcfg hb]
    exact ⟨toNat_add_one_of_lt (h.sc_lt_spb hb), rfl, rfl, rfl⟩
  · rw [State.sample_complete_regs _ hcfg hb hgt]
    exact ⟨rfl, rfl, rfl, rfl⟩
  · have hc : ¬ s.regs.total < s.regs.bp := Nat.not_lt.2 hle
    rw [State.sample_fetch_regs_eq _ hcfg hb hc]
    refine ⟨rfl, h.bp_add_one hcfg hc, fun hlt => ?_, fun hdue => ?_⟩
    · have hnot : ¬ s.regs.notice ≤ s.regs.pcnt := Nat.not_le.2 hlt
      rw [if_neg hnot, if_neg hnot]
      exact ⟨toNat_add_one_of_lt (BitVec.not_le.1 hnot), rfl⟩
    · have hyes : s.regs.notice ≤ s.regs.pcnt := hdue
      rw [if_pos hyes, if_pos hyes]
      exact ⟨rfl, h.pacc_add_one hcfg hc⟩

end Sys2Proof.Machine
end

section
/-! The canonical form of the state's lists (logs 5, 6 and 11). -/

namespace Sys2Proof.Machine

/-- Settles O17: every list of the reset state is empty. -/
theorem canonicalAtReset : Obligations.CanonicalAtReset :=
  ⟨List.Pairwise.nil, List.Pairwise.nil, List.Pairwise.nil, List.Pairwise.nil, Nat.le_refl 0⟩

/-- A slot write keeps both buffers strictly rising. -/
theorem State.writeSlot_buffers_wf {s : State} (i q : Byte) (hout : Memory.wf s.out) (hlone : Memory.wf s.lone) :
    Memory.wf (s.writeSlot i q).out ∧ Memory.wf (s.writeSlot i q).lone := by
  rw [State.writeSlot_out, State.writeSlot_lone]
  cases s.slots.headD none with
  | none => exact ⟨hout, Memory.wf_writePair 0 i q List.Pairwise.nil⟩
  | some k =>
    refine ⟨Memory.wf_writePair k i q ?_, hlone⟩
    split_ifs
    · exact List.Pairwise.nil
    · exact hout

/-- A SAMPLE takes one slot entry off, as its one word was taken off the port before it. -/
theorem State.sample_wf {s : State} (p : Params) {w : Word} (h : State.wf { s with samplePort := w :: s.samplePort }) :
    (s.sample p).wf := by
  obtain ⟨hsource, hout, hlone, hwritten, hslots⟩ := h
  obtain ⟨i, q, -, -, -, hnewOut, hnewLone⟩ := s.sample_writes_emitted p
  obtain ⟨hout', hlone'⟩ := State.writeSlot_buffers_wf (s := s) i q hout hlone
  rw [State.wf, State.sample_bitSource, hnewOut, hnewLone, State.sample_hostWritten, State.sample_slots,
    State.sample_samplePort, List.length_tail]
  exact ⟨hsource, hout', hlone', hwritten, Nat.sub_le_of_le_add hslots⟩

theorem State.configure_wf {s : State} (p : Params) (spb : Nat) (shift : Int) (len notice : Nat) (h : s.wf) :
    (s.configure p spb shift len notice).wf := by
  obtain ⟨hsource, hout, hlone, hwritten, hslots⟩ := h
  rcases State.configure_cases p spb shift len notice s with ⟨r, -, hs⟩ | ⟨-, hs⟩ <;> rw [hs]
  · exact ⟨hsource, hout, hlone, hwritten, hslots⟩
  · exact ⟨hsource, hout, hlone, List.Pairwise.nil, hslots⟩

theorem State.execute_wf {s : State} (n : Nat) (h : s.wf) : (s.execute n).wf := by
  by_cases hn : n = 0
  · rw [State.execute, if_pos hn]
    exact h
  · obtain ⟨hsource, hout, hlone, hwritten, -⟩ := h
    have hslots : (s.execute n).slots.length ≤ (s.execute n).samplePort.length := by
      rw [State.execute_slots hn, State.execute_samplePort]
      simp
    rw [State.execute_eq]
    exact ⟨hsource, hout, hlone, hwritten, hslots⟩

/-- A HOST step writes the bit source and its marks by the writes that keep them rising. -/
theorem State.hostStep_wf {s : State} (h : s.wf) : s.hostStep.wf := by
  unfold State.hostStep
  cases s.hostActs with
  | nil => exact h
  | cons act acts =>
    cases act with
    | writeByte a b =>
      obtain ⟨hsource, hout, hlone, hwritten, hslots⟩ := h
      exact ⟨Memory.wf_write a b hsource, hout, hlone, sorted_insertAddr a hwritten, hslots⟩
    | execute n => exact State.execute_wf (s := { s with hostActs := acts }) n h
    | declareLength _ | message _ _ _ _ => exact h

/-- Settles O18: case by case over what a step can be. -/
theorem canonicalKeptByStep : Obligations.CanonicalKeptByStep := by
  intro s t h hstep
  rcases step_cases hstep with ⟨-, rfl⟩ | ⟨ts, -, rfl⟩ | ⟨ts, -, rfl⟩ | ⟨ts, p, -, -, rfl⟩ |
    ⟨ts, p, i, rest, -, hdecode, hexec⟩
  · exact h
  · exact h
  · exact State.hostStep_wf (s := { s with turns := ts }) h
  · exact h
  · rcases decode_eq_ok hdecode with ⟨rfl, rfl, hframe⟩ | ⟨rfl, w1, w2, w3, w4, rfl, -⟩
    · rw [exec_sample, Host.Outcome.next.injEq] at hexec
      rw [← hexec]
      refine State.sample_wf (s := { s with turns := ts, samplePort := rest }) (w := sampleHeader) _ ?_
      rw [← hframe]
      exact h
    · rw [exec_configure, Host.Outcome.next.injEq] at hexec
      rw [← hexec]
      exact State.configure_wf (s := { s with turns := ts, configurationPort := rest }) _ _ _ _ _ h

end Sys2Proof.Machine
end

section
/-! Steps of the four agents and runs of them: what is next, what is refused, what is left alone (20_memory R62 to R68,
30_encoding R77 to R84). -/

namespace Sys2Proof.Machine

/-! ### The step of each agent -/

@[simp] theorem State.port_setTurns (s : State) (ts : List Agent) (p : Port) :
    ({ s with turns := ts } : State).port p = s.port p := by cases p <;> rfl

theorem State.withPort_port_of_ne (s : State) {p p' : Port} (hp : p' ≠ p) (ws : List Word) :
    (s.withPort p ws).port p' = s.port p' := by
  cases p with
  | configuration =>
    cases p' with
    | configuration => exact absurd rfl hp
    | sample => rfl
  | sample =>
    cases p' with
    | configuration => rfl
    | sample => exact absurd rfl hp

/-- The turn of a port's agent takes the next frame of the port (20_memory R62). -/
theorem State.nextAction_of_portAgent {s : State} {ts : List Agent} {p : Port} (ht : s.turns = portAgent p :: ts) :
    s.nextAction = ({ s with turns := ts } : State).fetch p := by
  cases p <;> simp only [State.nextAction, ht, portAgent]

theorem step_of_no_turn {s : State} (ht : s.turns = []) : step s = .next s := by
  simp only [step, State.nextAction, ht]

theorem step_of_rst {s : State} {ts : List Agent} (ht : s.turns = .rst :: ts) :
    step s = .next ({ s with turns := ts } : State).resetStep := by
  simp only [step, State.nextAction, ht]

theorem step_of_host {s : State} {ts : List Agent} (ht : s.turns = .host :: ts) :
    step s = .next ({ s with turns := ts } : State).hostStep := by
  simp only [step, State.nextAction, ht]

section
variable {s : State} {ts : List Agent} {p : Port} (ht : s.turns = portAgent p :: ts)
include ht

theorem step_of_no_word (hp : s.port p = []) : step s = .next { s with turns := ts } := by
  simp only [step, State.nextAction_of_portAgent ht]
  rw [State.fetch_empty (by rw [State.port_setTurns, hp])]

theorem step_of_decode {i : Instr} {rest : List Word} (hd : decode p (s.port p) = .ok (i, rest)) :
    step s = exec i (({ s with turns := ts } : State).withPort p rest) := by
  simp only [step, State.nextAction_of_portAgent ht]
  rw [State.fetch_ok (by rw [State.port_setTurns, hd])]

theorem step_of_decode_error {e : FrameError} (hp : s.port p ≠ []) (hd : decode p (s.port p) = .error e) :
    step s = .refused (.illegalFrame e) := by
  simp only [step, State.nextAction_of_portAgent ht]
  rcases State.fetch_cases { s with turns := ts } p with ⟨hempty, -⟩ | ⟨i, rest, hok, -⟩ | ⟨e', -, herror, hf⟩
  · rw [State.port_setTurns] at hempty
    exact absurd hempty hp
  · rw [State.port_setTurns, hd] at hok
    cases hok
  · rw [State.port_setTurns, hd] at herror
    cases herror
    rw [hf]

end

/-- Settles O6: the turn fetches the frame, which decodes. -/
theorem stepRunsDecodedFrame : Obligations.StepRunsDecodedFrame := fun _ _ _ _ _ ht hd => step_of_decode ht hd

/-- Settles O7: the turn fetches the frame, which does not decode. -/
theorem illegalFrameRefused : Obligations.IllegalFrameRefused := fun _ _ _ _ ht hp hd => step_of_decode_error ht hp hd

/-- Settles O10: no agent, or no word to fetch. -/
theorem noCommandNoChange : Obligations.NoCommandNoChange :=
  ⟨fun _ ht => step_of_no_turn ht, fun _ _ _ ht hp => step_of_no_word ht hp⟩

/-- Settles O11: the HOST step's frame. -/
theorem hostStepsLeaveBlock : Obligations.HostStepsLeaveBlock := fun _ _ ht =>
  ⟨_, step_of_host ht, State.hostStep_regs _, State.hostStep_events _, State.hostStep_turns _⟩

/-- Settles O12: the reset step loads the initial registers with the next draw. -/
theorem resetStepResults : Obligations.ResetStepResults := fun _ _ ht =>
  ⟨_, step_of_rst ht, rfl, rfl, rfl, rfl, fun _ => rfl, fun p => by cases p <;> rfl⟩

/-- Settles O13: the fields of the reset state, one by one. -/
theorem resetStateRegisters : Obligations.ResetStateRegisters :=
  ⟨rfl, rfl, rfl, rfl, rfl, rfl, rfl, rfl, rfl, rfl, rfl, rfl, rfl⟩

/-! ### Runs -/

theorem run_succ_of_next {s t : State} (h : step s = .next t) (n : Nat) : core.run (n + 1) s = core.run n t := by
  have hstep : core.step s = .next t := h
  simp only [Host.Core.run, hstep]

theorem run_succ_of_refused {s : State} {r : Refusal} (h : step s = .refused r) (n : Nat) :
    core.run (n + 1) s = .refused r := by
  have hstep : core.step s = .refused r := h
  simp only [Host.Core.run, hstep]

/-- A run of `m + n` steps goes on from where `m` steps lead. -/
theorem run_add_of_next {m : Nat} {s u : State} (h : core.run m s = .next u) (n : Nat) :
    core.run (m + n) s = core.run n u := by
  induction m generalizing s with
  | zero =>
    obtain rfl : s = u := Host.Outcome.next.inj h
    rw [Nat.zero_add]
  | succ m ih =>
    rw [Nat.add_right_comm]
    cases hs : step s with
    | next t =>
      rw [run_succ_of_next hs] at h ⊢
      exact ih h
    | fault r => cases r
    | refused r =>
      rw [run_succ_of_refused hs] at h
      cases h

theorem run_two {s t u : State} (h1 : step s = .next t) (h2 : step t = .next u) : core.run 2 s = .next u := by
  rw [run_succ_of_next h1, run_succ_of_next h2]
  rfl

/-- Settles O8: the refusal ends the run, and no further step is taken. -/
theorem refusalMarkKept : Obligations.RefusalMarkKept := by
  intro s u ts p e m n hrun ht hp hd
  rw [run_add_of_next hrun, run_succ_of_refused (step_of_decode_error ht hp hd)]

/-! ### Two inputs pending -/

@[simp] theorem State.configure_turns (p : Params) (spb : Nat) (shift : Int) (len notice : Nat) (s : State) :
    (s.configure p spb shift len notice).turns = s.turns := by
  rcases State.configure_cases p spb shift len notice s with ⟨r, -, h⟩ | ⟨-, h⟩ <;> rw [h] <;> rfl

@[simp] theorem State.configure_samplePort (p : Params) (spb : Nat) (shift : Int) (len notice : Nat) (s : State) :
    (s.configure p spb shift len notice).samplePort = s.samplePort := by
  rcases State.configure_cases p spb shift len notice s with ⟨r, -, h⟩ | ⟨-, h⟩ <;> rw [h] <;> rfl

/-- Every command answers a next state and leaves the turns (60_exceptions R160, R163). -/
theorem exec_next (i : Instr) (s : State) : ∃ t, exec i s = .next t ∧ t.turns = s.turns := by
  cases i with
  | configure spb shift len notice => exact ⟨_, exec_configure spb shift len notice s, State.configure_turns _ _ _ _ _ s⟩
  | sample => exact ⟨_, exec_sample s, State.sample_turns _ s⟩

/-- A command leaves the words of the port that is not its own. -/
theorem exec_keeps_other_port {i : Instr} {s t : State} (he : exec i s = .next t) {p : Port} (hp : p ≠ i.port) :
    t.port p = s.port p := by
  cases i with
  | configure spb shift len notice =>
    rw [exec_configure, Host.Outcome.next.injEq] at he
    cases p with
    | configuration => exact absurd rfl hp
    | sample =>
      rw [← he]
      exact State.configure_samplePort _ _ _ _ _ s
  | sample =>
    rw [exec_sample, Host.Outcome.next.injEq] at he
    rw [← he, State.sample_port]

/-- Two ports' agents in turn: the second runs its command from where the first one's left the machine, on its own words. -/
theorem run_two_ports {s : State} {ts : List Agent} {p p' : Port} {i j : Instr} {iRest jRest : List Word}
    (ht : s.turns = portAgent p :: portAgent p' :: ts) (hp : p' ≠ p) (hi : decode p (s.port p) = .ok (i, iRest))
    (hj : decode p' (s.port p') = .ok (j, jRest)) :
    ∃ t u, exec i (({ s with turns := portAgent p' :: ts } : State).withPort p iRest) = .next t ∧
      exec j (({ t with turns := ts } : State).withPort p' jRest) = .next u ∧ core.run 2 s = .next u := by
  obtain ⟨t, het, htTurns⟩ := exec_next i (({ s with turns := portAgent p' :: ts } : State).withPort p iRest)
  obtain ⟨u, heu, -⟩ := exec_next j (({ t with turns := ts } : State).withPort p' jRest)
  have hturns : t.turns = portAgent p' :: ts := by rw [htTurns]; cases p <;> rfl
  have hport : t.port p' = s.port p' := by
    rw [exec_keeps_other_port het (port_of_decode hi ▸ hp), State.withPort_port_of_ne _ hp, State.port_setTurns]
  exact ⟨t, u, het, heu, run_two ((step_of_decode ht hi).trans het)
    ((step_of_decode hturns (by rw [hport, hj])).trans heu)⟩

/-- Settles O9: each agent's step is one exec, and leaves the other's words and turn. -/
theorem bothOrdersAdmitted : Obligations.BothOrdersAdmitted := by
  refine ⟨fun s ts i j iRest jRest hi hj => ⟨?_, ?_⟩, fun s ts p i rest hi => ⟨?_, ?_⟩⟩
  · exact run_two_ports (s := { s with turns := .cfg :: .syn :: ts }) (p := .configuration) (p' := .sample) rfl nofun hi hj
  · exact run_two_ports (s := { s with turns := .syn :: .cfg :: ts }) (p := .sample) (p' := .configuration) rfl nofun hj hi
  · obtain ⟨u, hu, -⟩ := exec_next i (({ s with turns := ts } : State).resetStep.withPort p rest)
    have hport : ({ s with turns := portAgent p :: ts } : State).resetStep.port p = s.port p := by cases p <;> rfl
    exact ⟨u, hu, run_two (step_of_rst rfl) ((step_of_decode rfl (by rw [hport, hi])).trans hu)⟩
  · obtain ⟨t, ht, htTurns⟩ := exec_next i (({ s with turns := .rst :: ts } : State).withPort p rest)
    have hturns : t.turns = .rst :: ts := by rw [htTurns]; cases p <;> rfl
    have hfirst : step { s with turns := portAgent p :: .rst :: ts } = .next t :=
      (step_of_decode rfl (by rw [State.port_setTurns, hi])).trans ht
    exact ⟨t, ht, run_two hfirst (step_of_rst hturns)⟩

end Sys2Proof.Machine
end

section
/-! What the host does, and what its lines of text stand for (20_memory R52, R66, R68, 30_encoding R80 to R84). -/

namespace Sys2Proof.Machine

/-! ### HOST steps -/

/-- The next HOST step is the first pending one. -/
theorem step_of_hostAct {s : State} {ts : List Agent} {act : HostAct} {acts : List HostAct} (ht : s.turns = .host :: ts)
    (ha : s.hostActs = act :: acts) :
    step s = .next (({ s with turns := ts, hostActs := acts } : State).hostAct act) := by
  rw [step_of_host ht]
  simp only [State.hostStep, ha]

/-- Settles O40: the write lands at its address and marks it, and every other address keeps byte and mark. -/
theorem hostWriteDuringRun : Obligations.HostWriteDuringRun := by
  intro s ts acts a b ht ha
  refine ⟨_, step_of_hostAct ht ha, Memory.read_write_same _ _ _, ?_, rfl, fun x hx => ?_⟩
  · exact State.definedByte_eq_none.2 (.inr (mem_insertAddr.2 (.inl rfl)))
  · have hread : (s.bitSource.write a b).read x = s.bitSource.read x := Memory.read_write_other _ _ hx
    refine ⟨hread, ?_⟩
    simp [State.hostAct, State.definedByte, State.sourceByte, mem_insertAddr, hx, hread]

/-- Settles O59: the declaration writes only the length for the next run, which an accepted CONFIGURE takes. -/
theorem declaredLengthForNextRun : Obligations.DeclaredLengthForNextRun := by
  intro s ts acts n ht ha
  refine ⟨_, step_of_hostAct ht ha, rfl, rfl, rfl, fun a => ⟨rfl, rfl⟩, fun spb shift len notice haccepted => ?_⟩
  refine ⟨_, exec_configure spb shift len notice _, ?_⟩
  rw [State.configure_accepted notice _ (configureError_eq_none_iff_accepted.2 haccepted)]
  rfl

@[simp] theorem State.execute_configurationPort (s : State) (n : Nat) :
    (s.execute n).configurationPort = s.configurationPort := by rw [State.execute_eq]

@[simp] theorem State.execute_hostActs (s : State) (n : Nat) : (s.execute n).hostActs = s.hostActs := by
  rw [State.execute_eq]

/-- An EXECUTE's `k`-th frame is for slot `k`, behind the words that wait already (30_encoding R84). -/
theorem State.execute_slots_getElem? (s : State) {n k : Nat} (hk : k < n) :
    (s.execute n).slots[s.samplePort.length + k]? = some (some k) := by
  rw [State.execute_slots (by omega), List.getElem?_append_right (by simp), State.portSlots_length,
    Nat.add_sub_cancel_left, List.getElem?_map, List.getElem?_range hk]
  rfl

/-- Settles O55: a message is a CONFIGURE's frame and a buffer SAMPLE frames with their slots. -/
theorem hostSendsFrames : Obligations.HostSendsFrames := by
  intro s ts acts ht
  refine ⟨fun w1 w2 w3 w4 ha => ?_, fun n ha => ?_⟩
  · refine ⟨_, step_of_hostAct ht ha, rfl, rfl, rfl, fun hempty => ?_⟩
    simp only [State.hostAct, hempty]
    exact decode_configureHeader [w1, w2, w3, w4]
  · refine ⟨_, step_of_hostAct ht ha, State.execute_samplePort _ _, ?_, ?_, fun k hk => ?_⟩
    · exact State.execute_configurationPort _ n
    · exact State.execute_hostActs _ n
    · exact State.execute_slots_getElem? { s with turns := ts, hostActs := acts } hk

/-! ### Marks of written bytes -/

/-- Settles O58: the only command that takes marks away is an accepted CONFIGURE. -/
theorem writtenMarkStays : Obligations.WrittenMarkStays := by
  intro s t a hmem hstep
  have hleft : a ∈ t.hostWritten → a ∈ t.hostWritten ∧
      t.readBitSource a = (Config.freeByte t.draws, { t with draws := t.draws + 1 }) := fun h =>
    ⟨h, State.readBitSource_draw (State.definedByte_eq_none.2 (.inr h))⟩
  rcases step_commands hstep with ⟨-, -, -, hkeep⟩ | ⟨ts, -, rfl⟩ | ⟨ts, rest, -, -, rfl⟩ |
    ⟨ts, spb, shift, len, notice, rest, ht, hdecode, rfl⟩
  · exact .inl (hleft (hkeep a hmem))
  · exact .inl (hleft hmem)
  · exact .inl (hleft (by rw [State.sample_hostWritten]; exact hmem))
  · rcases State.configure_cases Config.params spb shift len notice { s with turns := ts, configurationPort := rest } with
      ⟨r, -, hc⟩ | ⟨hnone, -⟩
    · exact .inl (hleft (by rw [hc]; exact hmem))
    · exact .inr ⟨ts, spb, shift, len, notice, rest, ht, hdecode, configureError_eq_none_iff_accepted.1 hnone⟩

/-! ### Reply words and lines of text -/

/-- Settles O53: the four status words, and the two words of a report. -/
theorem replyWords : Obligations.ReplyWords :=
  ⟨by decide, by decide, by decide, by decide, fun _ => ⟨rfl, rfl⟩⟩

/-- Settles O54: the frame of a well-formed command decodes to it, and the turn is its port's agent's. -/
theorem issuedCommandRuns : Obligations.IssuedCommandRuns := by
  intro s i hwf ht hport
  have hissue : (s.issue (.command i)).turns = portAgent i.port :: [] ∧ (s.issue (.command i)).port i.port = encode i ++ [] ∧
      (s.issue (.command i)).regs = s.regs ∧ (s.issue (.command i)).events = s.events := by
    cases i with
    | configure spb shift len notice =>
      have hempty : s.configurationPort = [] := hport
      simp [State.issue, State.port, Instr.port, portAgent, ht, hempty]
    | sample =>
      have hempty : s.samplePort = [] := hport
      simp [State.issue, State.port, Instr.port, portAgent, ht, hempty]
  obtain ⟨hturns, hwords, hregs, hevents⟩ := hissue
  refine ⟨_, step_of_decode hturns (by rw [hwords, decodeOfEncode i [] hwf]), ?_, ?_, ?_, ?_⟩
  · rw [State.withPort_regs]; exact hregs
  · rw [State.withPort_events]; exact hevents
  · cases i <;> rfl
  · rw [State.withPort_port]

/-- A line taken as a command passed the range check (30_encoding R82). -/
theorem wf_of_checkRanges {i j : Instr} (h : checkRanges i = .ok (.command j)) : j.wf = true := by
  unfold checkRanges at h
  split_ifs at h with hwf
  cases h
  exact hwf

theorem wf_of_parseConfigure {operands : List (List Char)} {i : Instr} (h : parseConfigure operands = .ok (.command i)) :
    i.wf = true := by
  unfold parseConfigure at h
  split at h
  · split at h
    · exact wf_of_checkRanges h
    · cases h
  · cases h

theorem parseExecute_ne_command (operand : List Char) (i : Instr) : parseExecute operand ≠ .ok (.command i) := by
  unfold parseExecute
  split <;> simp

theorem wf_of_parseCommand {name operands : List Char} {i : Instr} (h : parseCommand name operands = .ok (.command i)) :
    i.wf = true := by
  unfold parseCommand at h
  split_ifs at h
  · exact wf_of_parseConfigure h
  · exact absurd h (parseExecute_ne_command operands i)
  · exact wf_of_checkRanges h
  · cases h

theorem wf_of_parseLine {text : List Char} {i : Instr} (h : parseLine text = .ok (.command i)) : i.wf = true := by
  unfold parseLine at h
  dsimp only at h
  split_ifs at h
  · cases h
  · exact wf_of_parseCommand h

/-- Settles O56: every way to a command goes through the range check, and every command's frame has its opcode's length. -/
theorem textLiteralsInRange : Obligations.TextLiteralsInRange := by
  intro text i h
  refine ⟨wf_of_parseLine h, ?_⟩
  cases i <;> rfl

end Sys2Proof.Machine
end

section
/-! The state machine, its error and its writers: what any step of any agent can do to the block (41_configure R152,
60_exceptions R160, 10_state R37). -/

namespace Sys2Proof.Machine

/-- A SAMPLE leaves Active only by completion (41_configure R152). -/
theorem State.sample_active_iff (p : Params) (s : State) :
    (s.sample p).regs.cfg = true ↔ s.regs.cfg = true ∧ ¬ (s.regs.sc = s.regs.spb ∧ s.regs.total < s.regs.bp) := by
  rcases s.sample_cases p with ⟨hcfg, h⟩ | ⟨hcfg, hb, h⟩ | ⟨hcfg, hb, hc, h⟩ | ⟨hcfg, hb, hc, h⟩ <;> rw [h]
  · simp [hcfg]
  · simp [hcfg, hb]
  · simp [hb, hc]
  · simp [hcfg, hc]

/-- A CONFIGURE enters Active exactly when accepted, and never leaves it (41_configure R142, R150). -/
theorem State.configure_active_iff (spb : Nat) (shift : Int) (len notice : Nat) (s : State) :
    (s.configure Config.params spb shift len notice).regs.cfg = true ↔
      AcceptedOperands spb shift len ∨ s.regs.cfg = true := by
  rw [← configureError_eq_none_iff_accepted]
  rcases State.configure_cases Config.params spb shift len notice s with ⟨r, hr, h⟩ | ⟨hnone, h⟩ <;> rw [h]
  · simp [hr]
  · simp [hnone]

/-- Settles O50: the commands' effects on CFG, and what they say of every step. -/
theorem idleActiveMachine : Obligations.IdleActiveMachine := by
  refine ⟨fun s => ⟨_, exec_sample s, s.sample_active_iff _⟩,
    fun s spb shift len notice => ⟨_, exec_configure spb shift len notice s, s.configure_active_iff spb shift len notice⟩,
    fun s t ts ht hstep => ?_, fun s t hstep hactive hidle => ?_, fun s t hstep hidle hactive => ?_⟩
  · rw [step_of_rst ht, Host.Outcome.next.injEq] at hstep
    rw [← hstep]
    rfl
  · rcases step_commands hstep with ⟨hregs, -⟩ | ⟨ts, ht, -⟩ | ⟨ts, rest, ht, hd, rfl⟩ |
      ⟨ts, spb, shift, len, notice, rest, -, -, rfl⟩
    · rw [hregs, hactive] at hidle
      cases hidle
    · exact .inl ⟨ts, ht⟩
    · have hnot := mt (State.sample_active_iff Config.params { s with turns := ts, samplePort := rest }).2
        (by rw [hidle]; exact Bool.false_ne_true)
      obtain ⟨hb, hc⟩ := not_not.1 (fun h => hnot ⟨hactive, h⟩)
      exact .inr ⟨ts, rest, ht, hd, hb, hc⟩
    · have hstays := (State.configure_active_iff spb shift len notice { s with turns := ts, configurationPort := rest }).2
        (.inr hactive)
      exact absurd (hidle.symm.trans hstays) Bool.false_ne_true
  · rcases step_commands hstep with ⟨hregs, -⟩ | ⟨ts, -, rfl⟩ | ⟨ts, rest, -, -, rfl⟩ |
      ⟨ts, spb, shift, len, notice, rest, ht, hd, rfl⟩
    · rw [hregs, hidle] at hactive
      cases hactive
    · cases hactive
    · have hwas := ((State.sample_active_iff _ _).1 hactive).1
      exact absurd (hidle.symm.trans hwas) Bool.false_ne_true
    · rcases (State.configure_active_iff spb shift len notice _).1 hactive with haccepted | hwas
      · exact ⟨ts, spb, shift, len, notice, rest, ht, hd, haccepted⟩
      · exact absurd (hidle.symm.trans hwas) Bool.false_ne_true

/-- Settles O51: only a rejected CONFIGURE adds an `InvalidConfig`, and it adds nothing else. -/
theorem errorOnlyFromConfigure : Obligations.ErrorOnlyFromConfigure := by
  intro s t hstep
  rcases step_commands hstep with ⟨-, hevents, -⟩ | ⟨ts, -, rfl⟩ | ⟨ts, rest, -, -, rfl⟩ |
    ⟨ts, spb, shift, len, notice, rest, ht, hd, rfl⟩
  · exact ⟨[], by rw [hevents, List.append_nil], fun r hr => absurd hr List.not_mem_nil⟩
  · exact ⟨[], (List.append_nil _).symm, fun r hr => absurd hr List.not_mem_nil⟩
  · obtain ⟨rs, i, q, hevents, hrs⟩ := State.sample_events Config.params { s with turns := ts, samplePort := rest }
    refine ⟨rs ++ [.sample i q], by rw [hevents, List.append_assoc], fun r hr => ?_⟩
    rcases hrs with rfl | ⟨progress, done, rfl⟩ <;> simp at hr
  · rcases State.configure_cases Config.params spb shift len notice { s with turns := ts, configurationPort := rest } with
      ⟨r', hr', hc⟩ | ⟨-, hc⟩ <;> rw [hc]
    · refine ⟨[.status (.invalidConfig r')], rfl, fun r hr => ?_⟩
      obtain rfl : r = r' := by simpa using hr
      refine ⟨ts, spb, shift, len, notice, rest, ht, hd, fun haccepted => ?_, rfl⟩
      rw [configureError_eq_none_iff_accepted.2 haccepted] at hr'
      cases hr'
    · exact ⟨[.status .ok], rfl, fun r hr => by simp at hr⟩

/-- Settles O52: a step without a command leaves the registers, and a SAMPLE the configuration registers. -/
theorem configurationWriters : Obligations.ConfigurationWriters := by
  intro s t hstep
  rcases step_commands hstep with ⟨hregs, -⟩ | ⟨ts, ht, -⟩ | ⟨ts, rest, ht, -, rfl⟩ |
    ⟨ts, spb, shift, len, notice, rest, ht, hd, -⟩
  · rw [hregs]
    exact .inr (.inr ⟨rfl, rfl, rfl, rfl, rfl, .inl rfl⟩)
  · exact .inl ⟨ts, ht⟩
  · obtain ⟨hspb, htotal, hinc0, hinc1, hnotice⟩ :=
      State.sample_keeps_configuration Config.params { s with turns := ts, samplePort := rest }
    exact .inr (.inr ⟨hspb, htotal, hinc0, hinc1, hnotice, .inr ⟨ts, ht⟩⟩)
  · exact .inr (.inl ⟨ts, spb, shift, len, notice, rest, ht, hd⟩)

end Sys2Proof.Machine
end

section
/-! The Idle block's registers other than PHASE are unobservable (70_reset R182). -/

namespace Sys2Proof.Machine

/-- The same registers, or two Idle ones with the same PHASE. -/
def Regs.Alike (r1 r2 : Regs) : Prop := r1 = r2 ∨ (r1.cfg = false ∧ r2.cfg = false ∧ r1.phase = r2.phase)

theorem Regs.Alike.refl (r : Regs) : r.Alike r := .inl rfl

theorem Regs.Alike.cfg_eq {r1 r2 : Regs} (h : r1.Alike r2) : r1.cfg = r2.cfg := by
  rcases h with rfl | ⟨h1, h2, -⟩
  · rfl
  · rw [h1, h2]

/-! ### What does not read the registers -/

theorem State.output_withRegs (s : State) (r : Regs) (i q : Byte) : (s.withRegs r).output i q = (s.output i q).withRegs r := by
  unfold State.output State.writeSlot
  rw [State.withRegs_slots]
  cases s.slots.headD none <;> rfl

theorem State.hostStep_withRegs (s : State) (r : Regs) : (s.withRegs r).hostStep = s.hostStep.withRegs r := by
  unfold State.hostStep
  rw [State.withRegs_hostActs]
  cases s.hostActs with
  | nil => rfl
  | cons act acts =>
    cases act with
    | execute n =>
      unfold State.hostAct State.execute
      dsimp only
      split_ifs <;> rfl
    | _ => rfl

/-- A load keeps nothing of the registers before it but PHASE (41_configure R148, R149). -/
theorem Regs.loaded_congr {r1 r2 : Regs} (h : r1.phase = r2.phase) (p : Params) (spb : Nat) (shift : Int) (len notice : Nat) :
    r1.loaded p spb shift len notice = r2.loaded p spb shift len notice := by
  rw [Regs.loaded, Regs.loaded, h]

/-! ### Two machines side by side -/

/-- Two outcomes that differ at most in alike registers. -/
inductive SameButRegs : Host.Outcome State Fault Refusal → Host.Outcome State Fault Refusal → Prop
  | next (t : State) {r1 r2 : Regs} (h : r1.Alike r2) : SameButRegs (.next (t.withRegs r1)) (.next (t.withRegs r2))
  | refused (e : Refusal) : SameButRegs (.refused e) (.refused e)

/-- A SAMPLE keeps two Idle machines alike: silence from both (40_synthesizer R101). -/
theorem sample_alike (s : State) {r1 r2 : Regs} (h1 : r1.cfg = false) (h2 : r2.cfg = false) (hphase : r1.phase = r2.phase) :
    SameButRegs (exec .sample (s.withRegs r1)) (exec .sample (s.withRegs r2)) := by
  rw [exec_sample, exec_sample, State.sample_idle _ h1, State.sample_idle _ h2, State.output_withRegs,
    State.output_withRegs]
  exact .next _ (.inr ⟨h1, h2, hphase⟩)

/-- A CONFIGURE keeps two Idle machines alike: the same rejection, or the same load (41_configure R142, R148). -/
theorem configure_alike (spb : Nat) (shift : Int) (len notice : Nat) (s : State) {r1 r2 : Regs} (h1 : r1.cfg = false)
    (h2 : r2.cfg = false) (hphase : r1.phase = r2.phase) :
    SameButRegs (exec (.configure spb shift len notice) (s.withRegs r1))
      (exec (.configure spb shift len notice) (s.withRegs r2)) := by
  rw [exec_configure, exec_configure]
  cases hc : configureError Config.params spb shift len with
  | some r =>
    rw [State.configure_rejected _ _ hc, State.configure_rejected _ _ hc]
    exact .next (s.raise r) (.inr ⟨h1, h2, hphase⟩)
  | none =>
    rw [State.configure_accepted _ _ hc, State.configure_accepted _ _ hc]
    exact .next s.startRun.replyOk (.inl (Regs.loaded_congr hphase Config.params spb shift len notice))

theorem exec_alike (i : Instr) (s : State) {r1 r2 : Regs} (h : r1.Alike r2) :
    SameButRegs (exec i (s.withRegs r1)) (exec i (s.withRegs r2)) := by
  rcases h with rfl | ⟨h1, h2, hphase⟩
  · obtain ⟨t, ht, -⟩ := exec_next i (s.withRegs r1)
    rw [ht]
    exact .next t (.refl t.regs)
  · cases i with
    | sample => exact sample_alike s h1 h2 hphase
    | configure spb shift len notice => exact configure_alike spb shift len notice s h1 h2 hphase

/-- A step keeps two machines alike, whatever agent takes it. -/
theorem step_alike (s : State) {r1 r2 : Regs} (h : r1.Alike r2) :
    SameButRegs (step (s.withRegs r1)) (step (s.withRegs r2)) := by
  have ht : ∀ r, (s.withRegs r).turns = s.turns := s.withRegs_turns
  rcases s.nextAction_cases with ⟨hts, -⟩ | ⟨ts, hts, -⟩ | ⟨ts, hts, -⟩ | ⟨ts, p, hts, -⟩
  · rw [step_of_no_turn ((ht r1).trans hts), step_of_no_turn ((ht r2).trans hts)]
    exact .next s h
  · rw [step_of_rst ((ht r1).trans hts), step_of_rst ((ht r2).trans hts)]
    exact .next ({ s with turns := ts } : State).resetStep (.refl _)
  · have hhost : ∀ r, step (s.withRegs r) = .next (({ s with turns := ts } : State).hostStep.withRegs r) := fun r =>
      (step_of_host ((ht r).trans hts)).trans (congrArg _ (State.hostStep_withRegs { s with turns := ts } r))
    rw [hhost r1, hhost r2]
    exact .next _ h
  · have hport : ∀ r, (s.withRegs r).port p = s.port p := fun r => by cases p <;> rfl
    rcases s.fetch_cases p with ⟨hempty, -⟩ | ⟨i, rest, hd, -⟩ | ⟨e, hp, hd, -⟩
    · rw [step_of_no_word ((ht r1).trans hts) ((hport r1).trans hempty),
        step_of_no_word ((ht r2).trans hts) ((hport r2).trans hempty)]
      exact .next { s with turns := ts } h
    · have hexec : ∀ r, step (s.withRegs r) =
          exec i ((({ s with turns := ts } : State).withPort p rest).withRegs r) := fun r => by
        rw [step_of_decode ((ht r).trans hts) (by rw [hport, hd])]
        cases p <;> rfl
      rw [hexec r1, hexec r2]
      exact exec_alike i _ h
    · have hrefuse : ∀ r, step (s.withRegs r) = .refused (.illegalFrame e) := fun r =>
        step_of_decode_error ((ht r).trans hts) (by rw [hport]; exact hp) (by rw [hport, hd])
      rw [hrefuse r1, hrefuse r2]
      exact .refused _

/-- Runs of any length keep two machines alike. -/
theorem run_alike (n : Nat) (s : State) {r1 r2 : Regs} (h : r1.Alike r2) :
    SameButRegs (core.run n (s.withRegs r1)) (core.run n (s.withRegs r2)) := by
  induction n generalizing s r1 r2 with
  | zero => exact .next s h
  | succ n ih =>
    have hstep := step_alike s h
    generalize h1 : step (s.withRegs r1) = o1 at hstep
    generalize h2 : step (s.withRegs r2) = o2 at hstep
    cases hstep with
    | next t hq =>
      rw [run_succ_of_next h1, run_succ_of_next h2]
      exact ih t hq
    | refused e =>
      rw [run_succ_of_refused h1, run_succ_of_refused h2]
      exact .refused e

/-- Settles O26: alike registers stay alike, and the events are those of the rest of the state. -/
theorem idleRegistersUnobservable : Obligations.IdleRegistersUnobservable := by
  intro s r1 r2 n h1 h2 hphase
  have hrun : SameButRegs (core.run n { s with regs := r1 }) (core.run n { s with regs := r2 }) :=
    run_alike n s (.inr ⟨h1, h2, hphase⟩)
  generalize core.run n { s with regs := r1 } = o1 at hrun ⊢
  generalize core.run n { s with regs := r2 } = o2 at hrun ⊢
  cases hrun with
  | next t hq => exact ⟨rfl, hq.cfg_eq⟩
  | refused e => rfl

end Sys2Proof.Machine
end

section
/-! Runs of SAMPLE: the length of a symbol and of a run, its reports and its phase (40_synthesizer R120 to R129). -/

namespace Sys2Proof.Machine

/-! ### Several SAMPLEs in a row -/

/-- The state after `n` SAMPLEs with no other step between. -/
def State.samples (s : State) (n : Nat) : State := (State.sample Config.params)^[n] s

theorem State.samples_zero (s : State) : s.samples 0 = s := rfl

theorem State.samples_succ (s : State) (n : Nat) : s.samples (n + 1) = (s.samples n).sample Config.params :=
  Function.iterate_succ_apply' _ n s

theorem State.samples_add (s : State) (m n : Nat) : s.samples (m + n) = (s.samples m).samples n := by
  rw [Nat.add_comm]
  exact Function.iterate_add_apply _ n m s

theorem execTimes_sample (s : State) (n : Nat) : execTimes .sample n s = .next (s.samples n) := by
  induction n generalizing s with
  | zero => rfl
  | succ n ih =>
    rw [execTimes_sample_succ, ih]
    rfl

/-- SAMPLEs leave the bit source, its length and its marks (20_memory R61). -/
theorem State.samples_keep_source (s : State) (n : Nat) :
    (s.samples n).bitSource = s.bitSource ∧ (s.samples n).runLen = s.runLen ∧ (s.samples n).hostWritten = s.hostWritten := by
  induction n with
  | zero => exact ⟨rfl, rfl, rfl⟩
  | succ n ih =>
    rw [State.samples_succ, State.sample_bitSource, State.sample_runLen, State.sample_hostWritten]
    exact ih

/-- SAMPLEs keep the two increments (10_state R37). -/
theorem State.samples_keep_increments (s : State) (n : Nat) :
    (s.samples n).regs.inc0 = s.regs.inc0 ∧ (s.samples n).regs.inc1 = s.regs.inc1 := by
  induction n with
  | zero => exact ⟨rfl, rfl⟩
  | succ n ih =>
    obtain ⟨-, -, hinc0, hinc1, -⟩ := (s.samples n).sample_keeps_configuration Config.params
    rw [State.samples_succ, hinc0, hinc1]
    exact ih

/-! ### Reports among the events -/

@[simp] theorem reportsOf_append (es fs : List Event) : reportsOf (es ++ fs) = reportsOf es ++ reportsOf fs :=
  List.filterMap_append

@[simp] theorem reportsOf_sampleOfPhase (phase : Word) : reportsOf [sampleOfPhase phase] = [] := rfl

theorem reportsOf_silence (n : Nat) : reportsOf (List.replicate n (.sample 0 0)) = [] := by
  induction n with
  | zero => rfl
  | succ n ih => exact ih

theorem State.sample_within_reports {s : State} (h : s.regs.cfg = true) (hb : s.regs.sc ≠ s.regs.spb) :
    reportsOf (s.sample Config.params).events = reportsOf s.events := by
  rw [State.sample_within _ h hb, State.ncoStage_emits_sampleOfPhase, reportsOf_append, reportsOf_sampleOfPhase,
    List.append_nil, State.withRegs_events]

theorem State.sample_fetch_reports {s : State} (h : s.regs.cfg = true) (hb : s.regs.sc = s.regs.spb)
    (hc : ¬ s.regs.total < s.regs.bp) :
    reportsOf (s.sample Config.params).events =
      reportsOf s.events ++ if s.regs.notice ≤ s.regs.pcnt then [(s.regs.pacc + 1, false)] else [] := by
  rw [State.sample_fetch_events h hb hc, reportsOf_append, reportsOf_append, reportsOf_sampleOfPhase, List.append_nil]
  split_ifs <;> rfl

/-! ### Within a symbol -/

/-- After `k` SAMPLEs of a symbol's rest SC is `k` and the tone was added `k` times (40_synthesizer R120, R123). -/
theorem State.samples_within_symbol {s : State} (h : s.regs.cfg = true) (hsc : s.regs.sc = 0) {k : Nat}
    (hk : k ≤ s.regs.spb.toNat) :
    (s.samples k).regs = { s.regs with
      sc := BitVec.ofNat 32 k
      phase := s.regs.phase + BitVec.ofNat 32 k * (if s.regs.cs then s.regs.inc1 else s.regs.inc0) } ∧
    reportsOf (s.samples k).events = reportsOf s.events ∧ (s.samples k).draws = s.draws := by
  induction k with
  | zero =>
    refine ⟨?_, rfl, rfl⟩
    rw [BitVec.zero_mul, BitVec.add_zero]
    change s.regs = { s.regs with sc := 0 }
    rw [← hsc]
  | succ k ih =>
    obtain ⟨hregs, hreports, hdraws⟩ := ih (Nat.le_of_succ_le hk)
    have hcfg : (s.samples k).regs.cfg = true := by rw [hregs]; exact h
    have hb : (s.samples k).regs.sc ≠ (s.samples k).regs.spb := by
      rw [hregs]
      intro heq
      have hlt := s.regs.spb.isLt
      have hval : (BitVec.ofNat 32 k).toNat = s.regs.spb.toNat := congrArg BitVec.toNat heq
      rw [BitVec.toNat_ofNat, Nat.mod_eq_of_lt (by omega)] at hval
      omega
    rw [State.samples_succ]
    refine ⟨?_, ?_, ?_⟩
    · rw [State.sample_within_regs _ hcfg hb, hregs, BitVec.ofNat_add, BitVec.add_mul, ← BitVec.add_assoc]
      simp only [Regs.advanced, Regs.countedSample, Regs.tone, BitVec.one_mul]
      rfl
    · rw [State.sample_within_reports hcfg hb, hreports]
    · rw [State.sample_within _ hcfg hb, State.ncoStage_draws, State.withRegs_draws, hdraws]

/-- Settles O42: the SAMPLEs within a symbol, by induction on their number. -/
theorem symbolDuration : Obligations.SymbolDuration := fun s k h hsc hk =>
  ⟨_, execTimes_sample s k, State.samples_within_symbol h hsc hk⟩

/-! ### The counters of a run as numbers -/

/-- Counting up below the divisor's multiple keeps the quotient. -/
theorem div_mod_succ_of_lt {N d : Nat} (h : N % d + 1 < d) : (N + 1) / d = N / d ∧ (N + 1) % d = N % d + 1 := by
  have hN : N + 1 = d * (N / d) + (N % d + 1) := by rw [← Nat.add_assoc, Nat.div_add_mod]
  rw [hN, Nat.mul_add_div (by omega), Nat.mul_add_mod, Nat.div_eq_of_lt h, Nat.mod_eq_of_lt h]
  exact ⟨rfl, rfl⟩

/-- Counting up to the divisor's next multiple. -/
theorem div_mod_succ_of_eq {N d : Nat} (h : N % d + 1 = d) : (N + 1) / d = N / d + 1 ∧ (N + 1) % d = 0 := by
  have hN : N + 1 = d * (N / d + 1) := by
    have hdiv := Nat.div_add_mod N d
    rw [Nat.mul_succ]
    omega
  rw [hN, Nat.mul_div_cancel_left _ (by omega), Nat.mul_mod_right]
  exact ⟨rfl, rfl⟩

/-- The progress reports `1, 2, .., q` (40_synthesizer R122). -/
def progressReports (q : Nat) : List (Word × Bool) := (List.range q).map (fun j => (BitVec.ofNat 32 (j + 1), false))

theorem progressReports_succ (q : Nat) : progressReports (q + 1) = progressReports q ++ [(BitVec.ofNat 32 (q + 1), false)] := by
  rw [progressReports, List.range_succ, List.map_append]
  rfl

/-- The block in a run of `CONFIGURE spb, _, len, notice` after `m` fetches, with `c` samples counted in the symbol; `base`
are the reports before the run (40_synthesizer R121, R122). -/
structure InRun (spb len notice : Nat) (base : List (Word × Bool)) (m c : Nat) (u : State) : Prop where
  inv : u.regs.Inv
  active : u.regs.cfg = true
  spb_eq : u.regs.spb.toNat = spb
  total_eq : u.regs.total.toNat = len + 4
  notice_eq : u.regs.notice.toNat = notice
  fetches : u.regs.bp.toNat = m
  counter : u.regs.sc.toNat = c
  sinceReport : u.regs.pcnt.toNat = m % (notice + 1)
  reportCount : u.regs.pacc.toNat = m / (notice + 1)
  reports : reportsOf u.events = base ++ progressReports (m / (notice + 1))

namespace InRun
variable {spb len notice : Nat} {base : List (Word × Bool)} {m c : Nat} {u : State}

theorem atBoundary (h : InRun spb len notice base m spb u) : u.regs.sc = u.regs.spb :=
  BitVec.eq_of_toNat_eq (h.counter.trans h.spb_eq.symm)

theorem not_atBoundary (h : InRun spb len notice base m c u) (hc : c < spb) : u.regs.sc ≠ u.regs.spb := fun heq => by
  have hval := congrArg BitVec.toNat heq
  rw [h.counter, h.spb_eq] at hval
  omega

theorem not_complete (h : InRun spb len notice base m c u) (hm : m ≤ len + 4) : ¬ u.regs.total < u.regs.bp := by
  rw [BitVec.lt_def, h.total_eq, h.fetches]
  omega

theorem complete (h : InRun spb len notice base (len + 5) c u) : u.regs.total < u.regs.bp := by
  rw [BitVec.lt_def, h.total_eq, h.fetches]
  omega

/-- A SAMPLE within a symbol. -/
theorem sample_within (h : InRun spb len notice base m c u) (hc : c < spb) :
    InRun spb len notice base m (c + 1) (u.sample Config.params) := by
  have hb := h.not_atBoundary hc
  obtain ⟨hspb, htotal, -, -, hnotice⟩ := u.sample_keeps_configuration Config.params
  obtain ⟨t, ht, -, hcount, -⟩ := countersNeverWrap u h.inv
  obtain rfl : u.sample Config.params = t := Host.Outcome.next.inj ht
  obtain ⟨hsc, hbp, hpcnt, hpacc⟩ := hcount h.active hb
  exact {
    inv := State.sample_inv _ h.inv
    active := (u.sample_active_iff _).2 ⟨h.active, fun ⟨hb', _⟩ => hb hb'⟩
    spb_eq := by rw [hspb, h.spb_eq]
    total_eq := by rw [htotal, h.total_eq]
    notice_eq := by rw [hnotice, h.notice_eq]
    fetches := by rw [hbp, h.fetches]
    counter := by rw [hsc, h.counter]
    sinceReport := by rw [hpcnt, h.sinceReport]
    reportCount := by rw [hpacc, h.reportCount]
    reports := by rw [State.sample_within_reports h.active hb, h.reports] }

/-- What a fetch does to the two progress counters and the reports: it counts, or every `NOTICE + 1` fetches it reports. -/
theorem sample_fetch_progress (h : InRun spb len notice base m spb u) (hm : m ≤ len + 4) :
    (u.sample Config.params).regs.pcnt.toNat = (m + 1) % (notice + 1) ∧
      (u.sample Config.params).regs.pacc.toNat = (m + 1) / (notice + 1) ∧
      reportsOf (u.sample Config.params).events = base ++ progressReports ((m + 1) / (notice + 1)) := by
  have hb := h.atBoundary
  have hc := h.not_complete hm
  obtain ⟨t, ht, -, -, -, hcount⟩ := countersNeverWrap u h.inv
  obtain rfl : u.sample Config.params = t := Host.Outcome.next.inj ht
  obtain ⟨-, -, hcounts, hreports⟩ := hcount h.active hb (Nat.not_lt.1 hc)
  rw [State.sample_fetch_reports h.active hb hc, h.reports]
  rw [h.sinceReport, h.notice_eq] at hcounts hreports
  have hlt : m % (notice + 1) < notice + 1 := Nat.mod_lt m (Nat.succ_pos notice)
  by_cases hdue : notice ≤ m % (notice + 1)
  · obtain ⟨hdiv, hmod⟩ := div_mod_succ_of_eq (N := m) (d := notice + 1) (by omega)
    obtain ⟨hpcnt, hpacc⟩ := hreports hdue
    have hle : u.regs.notice ≤ u.regs.pcnt := by rw [BitVec.le_def, h.notice_eq, h.sinceReport]; exact hdue
    have hword : u.regs.pacc + 1 = BitVec.ofNat 32 (m / (notice + 1) + 1) := by
      rw [BitVec.ofNat_add, ← h.reportCount, BitVec.ofNat_toNat, BitVec.setWidth_eq]
      rfl
    rw [hpcnt, hpacc, h.reportCount, hdiv, hmod, if_pos hle, hword, progressReports_succ, List.append_assoc]
    exact ⟨rfl, rfl, rfl⟩
  · obtain ⟨hdiv, hmod⟩ := div_mod_succ_of_lt (N := m) (d := notice + 1) (by omega)
    obtain ⟨hpcnt, hpacc⟩ := hcounts (Nat.not_le.1 hdue)
    have hgt : ¬ u.regs.notice ≤ u.regs.pcnt := by rw [BitVec.le_def, h.notice_eq, h.sinceReport]; exact hdue
    rw [hpcnt, hpacc, h.reportCount, hdiv, hmod, if_neg hgt, List.append_nil]
    exact ⟨rfl, rfl, rfl⟩

/-- A SAMPLE that fetches. -/
theorem sample_fetch (h : InRun spb len notice base m spb u) (hm : m ≤ len + 4) :
    InRun spb len notice base (m + 1) 0 (u.sample Config.params) := by
  have hb := h.atBoundary
  have hc := h.not_complete hm
  obtain ⟨hspb, htotal, -, -, hnotice⟩ := u.sample_keeps_configuration Config.params
  obtain ⟨hpcnt, hpacc, hreports⟩ := h.sample_fetch_progress hm
  have hregs := State.sample_fetch_regs_eq Config.params h.active hb hc
  exact {
    inv := State.sample_inv _ h.inv
    active := (u.sample_active_iff _).2 ⟨h.active, fun ⟨_, hc'⟩ => hc hc'⟩
    spb_eq := by rw [hspb, h.spb_eq]
    total_eq := by rw [htotal, h.total_eq]
    notice_eq := by rw [hnotice, h.notice_eq]
    fetches := by rw [hregs, h.inv.bp_add_one h.active hc, h.fetches]
    counter := by rw [hregs]; rfl
    sinceReport := hpcnt
    reportCount := hpacc
    reports := hreports }

/-- After `n` SAMPLEs from the run's start, `ceil(n / (SPB + 1))` fetches are made (40_synthesizer R121). -/
theorem samples (h : InRun spb len notice base 0 spb u) {n : Nat} (hn : n ≤ (len + 5) * (spb + 1)) :
    InRun spb len notice base ((n + spb) / (spb + 1)) ((n + spb) % (spb + 1)) (u.samples n) := by
  induction n with
  | zero =>
    rw [Nat.zero_add, Nat.div_eq_of_lt (Nat.lt_succ_self spb), Nat.mod_eq_of_lt (Nat.lt_succ_self spb)]
    exact h
  | succ n ih =>
    have hrun := ih (Nat.le_of_succ_le hn)
    rw [State.samples_succ, Nat.add_right_comm]
    have hmod : (n + spb) % (spb + 1) < spb + 1 := Nat.mod_lt (n + spb) (Nat.succ_pos spb)
    by_cases hb : (n + spb) % (spb + 1) = spb
    · have hm : (n + spb) / (spb + 1) < len + 5 := by
        have hdiv := Nat.div_add_mod (n + spb) (spb + 1)
        rw [hb] at hdiv
        refine Nat.lt_of_mul_lt_mul_left (a := spb + 1) ?_
        rw [Nat.mul_comm _ (len + 5)]
        omega
      obtain ⟨hd, hr⟩ := div_mod_succ_of_eq (N := n + spb) (d := spb + 1) (by omega)
      rw [hb] at hrun
      rw [hd, hr]
      exact hrun.sample_fetch (by omega)
    · obtain ⟨hd, hr⟩ := div_mod_succ_of_lt (N := n + spb) (d := spb + 1) (by omega)
      rw [hd, hr]
      exact hrun.sample_within (by omega)

/-- At the end of the `m`-th symbol the block is at a boundary. -/
theorem samples_symbols (h : InRun spb len notice base 0 spb u) {m : Nat} (hm : m ≤ len + 5) :
    InRun spb len notice base m spb (u.samples (m * (spb + 1))) := by
  have hrun := h.samples (Nat.mul_le_mul_right (spb + 1) hm)
  have hlt : spb < spb + 1 := Nat.lt_succ_self spb
  rwa [Nat.mul_comm m, Nat.mul_add_div (Nat.succ_pos spb), Nat.mul_add_mod, Nat.div_eq_of_lt hlt, Nat.mod_eq_of_lt hlt,
    Nat.add_zero, Nat.mul_comm _ m] at hrun

/-- One SAMPLE more than the last symbol completes the run, and SAMPLEs after it report nothing (40_synthesizer R112, R113). -/
theorem samples_complete (h : InRun spb len notice base 0 spb u) (k : Nat) :
    (u.samples ((len + 5) * (spb + 1) + (k + 1))).regs.cfg = false ∧
      (u.samples ((len + 5) * (spb + 1) + (k + 1))).regs.bp.toNat = len + 5 ∧
      reportsOf (u.samples ((len + 5) * (spb + 1) + (k + 1))).events =
        base ++ progressReports ((len + 5) / (notice + 1)) ++ [(BitVec.ofNat 32 ((len + 5) / (notice + 1)), true)] := by
  have hend := h.samples_symbols le_rfl
  obtain ⟨t, ht, hregs, hevents⟩ := execTimes_sample_complete k hend.active hend.atBoundary hend.complete
  rw [execTimes_sample, ← State.samples_add, Host.Outcome.next.injEq] at ht
  rw [ht, hregs, hevents]
  refine ⟨rfl, hend.fetches, ?_⟩
  rw [reportsOf_append, reportsOf_append, reportsOf_silence, hend.reports, List.append_nil, ← hend.reportCount,
    BitVec.ofNat_toNat, BitVec.setWidth_eq]
  rfl

end InRun

/-! ### The run of an accepted CONFIGURE -/

/-- An accepted CONFIGURE starts a run (41_configure R148). -/
theorem State.configure_inRun {spb : Nat} {shift : Int} {len notice : Nat} (s : State)
    (hwf : (Instr.configure spb shift len notice).wf = true) (haccepted : AcceptedOperands spb shift len) :
    InRun spb len notice (reportsOf (s.configure Config.params spb shift len notice).events) 0 spb
      (s.configure Config.params spb shift len notice) := by
  obtain ⟨hspb, -, hnotice⟩ := unsigned_operands_of_wf hwf
  have hnone := configureError_eq_none_iff_accepted.2 haccepted
  obtain ⟨hspbValue, htotalValue, hnoticeValue, -⟩ := Regs.loaded_values s.regs hspb hnotice hnone
  rw [State.configure_accepted notice s hnone]
  exact {
    inv := Regs.Inv.loaded s.regs hspb hnotice hnone
    active := rfl
    spb_eq := hspbValue
    total_eq := htotalValue
    notice_eq := hnoticeValue
    fetches := rfl
    counter := hspbValue
    sinceReport := (Nat.zero_mod _).symm
    reportCount := (Nat.zero_div _).symm
    reports := by rw [Nat.zero_div]; exact (List.append_nil _).symm }

/-- Settles O43: the run's state after `n` SAMPLEs, and the completing one. -/
theorem runLength : Obligations.RunLength := by
  intro s spb shift len notice hwf haccepted
  have hstart := s.configure_inRun hwf haccepted
  refine ⟨_, exec_configure spb shift len notice s, fun n hn => ?_, _, execTimes_sample _ _, ?_⟩
  · have hrun := hstart.samples hn
    exact ⟨_, execTimes_sample _ n, hrun.active, hrun.fetches⟩
  · obtain ⟨hcfg, hbp, -⟩ := hstart.samples_complete 0
    exact ⟨hcfg, hbp⟩

/-- Settles O44: the same two, for the reports. -/
theorem reportsOfRun : Obligations.ReportsOfRun := by
  intro s spb shift len notice hwf haccepted
  have hstart := s.configure_inRun hwf haccepted
  refine ⟨_, exec_configure spb shift len notice s, fun n hn => ⟨_, execTimes_sample _ n, (hstart.samples hn).reports⟩,
    fun n hn => ⟨_, execTimes_sample _ n, ?_⟩⟩
  obtain ⟨k, rfl⟩ := Nat.exists_eq_add_of_lt hn
  obtain ⟨-, -, hreports⟩ := hstart.samples_complete k
  exact hreports

/-! ### The phase of a run -/

/-- The next bit of a run over defined bytes is the bit source's (20_memory R53, R54). -/
theorem State.nextBit_of_defined {s u : State} (hsource : u.bitSource = s.bitSource)
    (hdefined : u.regs.bp.toNat / 8 < u.runLen) (hwritten : u.hostWritten = []) :
    u.definedByte (u.regs.bp.toNat / 8) = some (s.sourceByte (u.regs.bp.toNat / 8)) ∧
      u.nextBit = streamBit s u.regs.bp.toNat := by
  have hbyte : u.definedByte (u.regs.bp.toNat / 8) = some (s.sourceByte (u.regs.bp.toNat / 8)) := by
    rw [State.definedByte_eq_some, hwritten, State.sourceByte, State.sourceByte, hsource]
    exact ⟨⟨hdefined, List.not_mem_nil⟩, rfl⟩
  exact ⟨hbyte, by rw [State.nextBit, hbyte]; rfl⟩

/-- One symbol of a run, from a boundary with a fetch: `SPB + 1` SAMPLEs add the fetched bit's tone each, and draw nothing
when its byte is defined (40_synthesizer R123). -/
theorem State.samples_symbol {u : State} (h : u.regs.cfg = true) (hb : u.regs.sc = u.regs.spb) (hc : ¬ u.regs.total < u.regs.bp)
    (hdefined : (u.definedByte (u.regs.bp.toNat / 8)).isSome) :
    (u.samples (u.regs.spb.toNat + 1)).regs.phase =
        u.regs.phase + BitVec.ofNat 32 (u.regs.spb.toNat + 1) * (if u.nextBit then u.regs.inc1 else u.regs.inc0) ∧
      (u.samples (u.regs.spb.toNat + 1)).draws = u.draws := by
  have hregs := State.sample_fetch_regs_eq Config.params h hb hc
  have hdraws := State.sample_fetch_draws Config.params h hb hc
  rw [if_pos hdefined, Nat.add_zero] at hdraws
  obtain ⟨hrest, -, hrestDraws⟩ := State.samples_within_symbol (s := u.sample Config.params) (k := u.regs.spb.toNat)
    (by rw [hregs]; exact h) (by rw [hregs]) (by rw [hregs])
  have hsplit : u.samples (u.regs.spb.toNat + 1) = (u.sample Config.params).samples u.regs.spb.toNat := by
    rw [Nat.add_comm, State.samples_add]
    rfl
  rw [hsplit, hrest, hrestDraws, hdraws, hregs]
  refine ⟨?_, rfl⟩
  rw [BitVec.ofNat_add, BitVec.add_mul, BitVec.one_mul, BitVec.add_comm (BitVec.ofNat 32 _ * _), ← BitVec.add_assoc]

/-- The phase after `m` whole symbols of a run over defined bytes. -/
theorem InRun.samples_phase {spb len notice : Nat} {base : List (Word × Bool)} {s t : State}
    (h : InRun spb len notice base 0 spb t) (hsource : t.bitSource = s.bitSource) (hlen : (len + 4) / 8 < t.runLen)
    (hwritten : t.hostWritten = []) {m : Nat} (hm : m ≤ len + 5) :
    (t.samples (m * (spb + 1))).regs.phase =
        t.regs.phase + BitVec.ofNat 32 (spb + 1) * toneSum t.regs.inc0 t.regs.inc1 (streamBit s) m ∧
      (t.samples (m * (spb + 1))).draws = t.draws := by
  induction m with
  | zero =>
    rw [Nat.zero_mul]
    refine ⟨?_, rfl⟩
    change t.regs.phase = t.regs.phase + BitVec.ofNat 32 (spb + 1) * 0#32
    rw [BitVec.mul_zero, BitVec.add_zero]
  | succ m ih =>
    obtain ⟨hphase, hdraws⟩ := ih (Nat.le_of_succ_le hm)
    have hrun := h.samples_symbols (Nat.le_of_succ_le hm)
    obtain ⟨hkeepSource, hkeepLen, hkeepWritten⟩ := t.samples_keep_source (m * (spb + 1))
    obtain ⟨hinc0, hinc1⟩ := t.samples_keep_increments (m * (spb + 1))
    have hle : m / 8 ≤ (len + 4) / 8 := Nat.div_le_div_right (by omega)
    obtain ⟨hbyte, hbit⟩ := State.nextBit_of_defined (hkeepSource.trans hsource)
      (by rw [hkeepLen, hrun.fetches]; omega) (hkeepWritten.trans hwritten)
    obtain ⟨hsymbol, hsymbolDraws⟩ := State.samples_symbol hrun.active hrun.atBoundary (hrun.not_complete (by omega))
      (by rw [hbyte]; rfl)
    rw [hrun.spb_eq, ← State.samples_add] at hsymbol hsymbolDraws
    rw [Nat.succ_mul, hsymbol, hsymbolDraws, hphase, hdraws, hbit, hrun.fetches, hinc0, hinc1, toneSum, BitVec.mul_add,
      BitVec.add_assoc]
    exact ⟨rfl, rfl⟩

/-- Settles O45: all the symbols of the run. -/
theorem phaseOfRun : Obligations.PhaseOfRun := by
  intro s spb shift len notice hwf haccepted hlen
  have hload := State.configure_accepted notice s (configureError_eq_none_iff_accepted.2 haccepted)
  obtain ⟨hphase, hdraws⟩ := (s.configure_inRun hwf haccepted).samples_phase (s := s) (by rw [hload]; rfl)
    (by rw [hload]; exact hlen) (by rw [hload]; rfl) le_rfl
  exact ⟨_, _, exec_configure spb shift len notice s, execTimes_sample _ _, hdraws.trans (by rw [hload]; rfl), hphase⟩

end Sys2Proof.Machine
end

section
/-! Frames and turns waiting: they run as SAMPLEs in a row, however they were issued (20_memory R63, 30_encoding R84,
40_synthesizer R125). -/

namespace Sys2Proof.Machine

/-! ### SAMPLEs do not read what waits -/

/-- The state with other words on the sample port and other turns to come. -/
def State.withQueue (s : State) (ws : List Word) (ts : List Agent) : State := { s with samplePort := ws, turns := ts }

theorem SameBlock.withQueue (s : State) (ws : List Word) (ts : List Agent) : SameBlock s (s.withQueue ws ts) :=
  ⟨rfl, rfl, rfl, rfl, rfl, rfl⟩

theorem State.outputAfter_withQueue (s : State) (ws : List Word) (ts : List Agent) (r : Regs) (rs : List Event) (d : Nat)
    (i q : Byte) : (s.withQueue ws ts).outputAfter r rs d i q = (s.outputAfter r rs d i q).withQueue ws ts := by
  unfold State.outputAfter State.output State.writeSlot State.withQueue
  dsimp only
  cases s.slots.headD none <;> rfl

theorem State.sample_withQueue (p : Params) (s : State) (ws : List Word) (ts : List Agent) :
    (s.withQueue ws ts).sample p = (s.sample p).withQueue ws ts := by
  obtain ⟨r, rs, d, i, q, hs, hu, -⟩ := (SameBlock.withQueue s ws ts).sample_eq_outputAfter p
  rw [hs, hu, State.outputAfter_withQueue]

/-- `n` frames at the front of the sample port, and `n` turns of SYN first, run as `n` SAMPLEs (20_memory R63). -/
theorem run_frames (n : Nat) {s : State} {ws : List Word} {ts : List Agent}
    (hp : s.samplePort = List.replicate n sampleHeader ++ ws) (ht : s.turns = List.replicate n .syn ++ ts) :
    core.run n s = .next ((s.withQueue ws ts).samples n) := by
  induction n generalizing s with
  | zero =>
    have hs : s.withQueue ws ts = s := by
      rw [List.replicate_zero, List.nil_append] at hp ht
      rw [State.withQueue, ← hp, ← ht]
    rw [hs]
    rfl
  | succ n ih =>
    rw [List.replicate_succ, List.cons_append] at hp ht
    have hd : decode .sample (s.port .sample) = .ok (.sample, List.replicate n sampleHeader ++ ws) := by
      rw [State.port, hp, decode_sampleHeader]
    have hstep : step s = .next ((s.sample Config.params).withQueue (List.replicate n sampleHeader ++ ws)
        (List.replicate n .syn ++ ts)) := by
      rw [← State.sample_withQueue]
      exact step_of_decode (p := .sample) ht hd
    have hfirst : (s.withQueue ws ts).samples (n + 1) = ((s.sample Config.params).withQueue ws ts).samples n := by
      rw [Nat.add_comm, State.samples_add, ← State.sample_withQueue]
      rfl
    rw [run_succ_of_next hstep, ih rfl rfl, hfirst]
    rfl

/-- Settles O47: by induction on the number of frames. -/
theorem framesRunInOrder : Obligations.FramesRunInOrder := fun s n ws ts hp ht =>
  ⟨_, execTimes_sample (s.withQueue ws ts) n, run_frames n hp ht⟩

/-! ### EXECUTE, whole or in chunks -/

theorem SameBlock.execute (s : State) (n : Nat) : SameBlock s (s.execute n) := by
  rw [State.execute_eq]
  exact ⟨rfl, rfl, rfl, rfl, rfl, rfl⟩

theorem SameBlock.issue_execute (s : State) (n : Nat) : SameBlock s (s.issue (.execute n)) :=
  (SameBlock.execute s n).trans ⟨rfl, rfl, rfl, rfl, rfl, rfl⟩

theorem SameBlock.samples {s u : State} (h : SameBlock s u) (n : Nat) : SameBlock (s.samples n) (u.samples n) := by
  induction n with
  | zero => exact h
  | succ n ih =>
    rw [State.samples_succ, State.samples_succ]
    exact ih.sample Config.params

theorem State.issue_execute_samplePort (s : State) (n : Nat) :
    (s.issue (.execute n)).samplePort = s.samplePort ++ List.replicate n sampleHeader := State.execute_samplePort s n

theorem State.issue_execute_turns (s : State) (n : Nat) :
    (s.issue (.execute n)).turns = s.turns ++ List.replicate n .syn := rfl

/-- Settles O48: both programs put the same frames and turns, and SAMPLEs do not read the slots they differ in. -/
theorem chunkingInvisible : Obligations.ChunkingInvisible := by
  intro s n1 n2 ht hp
  have hchunks := run_frames (n1 + n2) (s := s.issueAll [.execute n1, .execute n2]) (ws := []) (ts := [])
    (by rw [State.issueAll, State.issueAll, State.issueAll, State.issue_execute_samplePort, State.issue_execute_samplePort, hp,
      List.nil_append, List.replicate_append_replicate, List.append_nil])
    (by rw [State.issueAll, State.issueAll, State.issueAll, State.issue_execute_turns, State.issue_execute_turns, ht,
      List.nil_append, List.replicate_append_replicate, List.append_nil])
  have hwhole := run_frames (n1 + n2) (s := s.issue (.execute (n1 + n2))) (ws := []) (ts := [])
    (by rw [State.issue_execute_samplePort, hp, List.nil_append, List.append_nil])
    (by rw [State.issue_execute_turns, ht, List.nil_append, List.append_nil])
  have hsame : SameBlock (s.issueAll [.execute n1, .execute n2]) (s.issue (.execute (n1 + n2))) :=
    ((SameBlock.issue_execute s n1).trans (SameBlock.issue_execute _ n2)).symm.trans (SameBlock.issue_execute s (n1 + n2))
  have hend := ((SameBlock.withQueue _ [] []).symm.trans (hsame.trans (SameBlock.withQueue _ [] []))).samples (n1 + n2)
  exact ⟨_, _, hchunks, hwhole, hend.regs.symm, hend.events.symm, hend.draws.symm⟩

/-! ### The buffer of an EXECUTE -/

theorem State.samples_slots (s : State) (n : Nat) : (s.samples n).slots = s.slots.drop n := by
  induction n with
  | zero => rfl
  | succ n ih => rw [State.samples_succ, State.sample_slots, ih, List.tail_drop]

theorem State.samples_keep_queue (s : State) (n : Nat) :
    (s.samples n).samplePort = s.samplePort ∧ (s.samples n).turns = s.turns := by
  induction n with
  | zero => exact ⟨rfl, rfl⟩
  | succ n ih =>
    rw [State.samples_succ, State.sample_samplePort, State.sample_turns]
    exact ih

theorem samplesOf_append (es fs : List Event) : samplesOf (es ++ fs) = samplesOf es ++ samplesOf fs := List.filterMap_append

/-- A SAMPLE adds one pair to the samples and writes it into its slot (20_memory R57). -/
theorem State.sample_adds_pair (s : State) :
    ∃ i q, samplesOf (s.sample Config.params).events = samplesOf s.events ++ [(i, q)] ∧
      (s.sample Config.params).out = (s.writeSlot i q).out := by
  obtain ⟨i, q, rs, hevents, hrs, hout, -⟩ := s.sample_writes_emitted Config.params
  refine ⟨i, q, ?_, hout⟩
  have hnone : samplesOf rs = [] := by rcases hrs with rfl | ⟨progress, done, rfl⟩ <;> rfl
  rw [hevents, samplesOf_append, samplesOf_append, hnone, List.append_nil]
  rfl

theorem State.samples_count (s : State) (n : Nat) :
    (samplesOf (s.samples n).events).length = (samplesOf s.events).length + n := by
  induction n with
  | zero => rfl
  | succ n ih =>
    obtain ⟨i, q, hsamples, -⟩ := (s.samples n).sample_adds_pair
    rw [State.samples_succ, hsamples, List.length_append, ih]
    rfl

/-- The first `j` slots of an EXECUTE's buffer hold the samples emitted after the first `base`, and nothing stands beyond
them (20_memory R58). -/
structure Filled (base j : Nat) (u : State) : Prop where
  count : (samplesOf u.events).length = base + j
  filled : ∀ k < j, ∃ i q, (samplesOf u.events)[base + k]? = some (i, q) ∧ u.out.read (2 * k) = some i ∧
    u.out.read (2 * k + 1) = some q
  beyond : 0 < j → ∀ a, 2 * j ≤ a → u.out.read a = none

/-- The SAMPLE for slot `j` fills it and keeps the slots before it. -/
theorem Filled.sample {base j : Nat} {u : State} (h : Filled base j u) (hslot : u.slots.head? = some (some j)) :
    Filled base (j + 1) (u.sample Config.params) := by
  obtain ⟨i, q, hsamples, hout⟩ := u.sample_adds_pair
  obtain ⟨hi, hq, hother⟩ := State.writeSlot_reads i q hslot
  refine ⟨?_, fun k hk => ?_, fun _ a ha => ?_⟩
  · rw [hsamples, List.length_append, h.count]
    rfl
  · rw [hsamples, hout]
    rcases Nat.lt_succ_iff_lt_or_eq.1 hk with hlt | rfl
    · obtain ⟨i', q', hget, hi', hq'⟩ := h.filled k hlt
      have hkeep : ∀ a, a < 2 * j → (u.writeSlot i q).out.read a = u.out.read a := fun a ha => by
        rw [hother a (by omega) (by omega), if_neg (by omega)]
      refine ⟨i', q', ?_, ?_, ?_⟩
      · rw [List.getElem?_append_left (by rw [h.count]; omega), hget]
      · rw [hkeep _ (by omega), hi']
      · rw [hkeep _ (by omega), hq']
    · refine ⟨i, q, ?_, hi, hq⟩
      rw [← h.count, List.getElem?_concat_length]
  · rw [hout, hother a (by omega) (by omega)]
    split_ifs with hj
    · rfl
    · exact h.beyond (by omega) a (by omega)

/-- The SAMPLEs of an EXECUTE whose slots come next fill its buffer from slot 0 on. -/
theorem State.samples_filled {v : State} {n : Nat} (hslots : v.slots = (List.range n).map some) {j : Nat} (hj : j ≤ n) :
    Filled (samplesOf v.events).length j (v.samples j) := by
  induction j with
  | zero => exact ⟨rfl, fun k hk => absurd hk (Nat.not_lt_zero k), fun h => absurd h (Nat.lt_irrefl 0)⟩
  | succ j ih =>
    rw [State.samples_succ]
    refine (ih (Nat.le_of_succ_le hj)).sample ?_
    rw [State.samples_slots, hslots, List.head?_drop, List.getElem?_map, List.getElem?_range hj]
    rfl

/-- Settles O49: the `m` frames before it run first and take their slot entries, then its own fill its buffer. -/
theorem executeFillsBuffer : Obligations.ExecuteFillsBuffer := by
  refine ⟨fun s => ?_, fun s m n ht hp hn => ?_⟩
  · rw [State.issue, State.execute, if_pos rfl, List.replicate_zero, List.append_nil]
  · have hrun := run_frames (m + n) (s := s.issue (.execute n)) (ws := []) (ts := [])
      (by rw [State.issue_execute_samplePort, hp, List.append_nil, ← List.replicate_append_replicate]; rfl)
      (by rw [State.issue_execute_turns, ht, List.append_nil, List.replicate_append_replicate])
    generalize hs1 : (s.issue (.execute n)).withQueue [] [] = s1 at hrun
    have hevents : s1.events = s.events := by
      rw [← hs1, (SameBlock.withQueue _ [] []).events, (SameBlock.issue_execute s n).events]
    have hslots : s1.slots = s.portSlots ++ (List.range n).map some := by
      rw [← hs1]
      exact State.execute_slots (by omega)
    have hemptyPort : s1.samplePort = [] := by rw [← hs1]; rfl
    have hemptyTurns : s1.turns = [] := by rw [← hs1]; rfl
    have hown : (s1.samples m).slots = (List.range n).map some := by
      rw [State.samples_slots, hslots, List.drop_left' (by rw [State.portSlots_length, hp, List.length_replicate])]
    have hfilled := State.samples_filled hown le_rfl
    rw [State.samples_count, hevents, ← State.samples_add] at hfilled
    obtain ⟨hport, hturns⟩ := s1.samples_keep_queue (m + n)
    exact ⟨_, hrun, hport.trans hemptyPort, hturns.trans hemptyTurns, hfilled.count, hfilled.filled, hfilled.beyond hn⟩

end Sys2Proof.Machine
end
